-- ==== Sys2Proof/Word.lean ====
section
/-! DEFINITION. The two bit-vector types of HPRNG-CORE: the 64-bit host-visible register (`XLEN = 64`) and the 8-bit
register index (00_scope.md R7). Words inside the engines are natural numbers (R9) and do not appear here. -/

namespace Sys2Proof

/-- The content of one host-visible register, an operand or a command word: `XLEN = 64` bits (R7). -/
abbrev Word := BitVec 64

/-- A register index, `0..255` (R7, R40). -/
abbrev RegIndex := BitVec 8

end Sys2Proof
end

