-- ==== Sys2Proof/Config.lean ====
section
/-! DEFINITION. What an instance of the block fixes (00_scope.md R4 to R6): the names of the variants, the pair of
variants that an instance is built with, and the two parameter records the engine logic is written over. The values of
the records are the tables of Sys2Proof/Machine/Params.lean. The spec leaves no value open, so there is no free value. -/

namespace Sys2Proof

/-- The two LCG variants (R4). -/
inductive LcgVariant where
  | lcg31
  | lcg48
  deriving DecidableEq, Repr

/-- The four Philox variants (R5). -/
inductive PhiloxVariant where
  | p2x32
  | p2x64
  | p4x32
  | p4x64
  deriving DecidableEq, Repr

/-- One instance of the block: `LCG_VARIANT` and `PHILOX_VARIANT`, fixed at instantiation (R4, R5, D3). -/
structure Instance where
  lcg : LcgVariant
  phx : PhiloxVariant
  deriving DecidableEq, Repr

/-- The LCG parameter record `(a, c, m)` (R4). -/
structure LcgParams where
  /-- multiplier -/
  a : Nat
  /-- increment -/
  c : Nat
  /-- modulus -/
  m : Nat
  deriving DecidableEq, Repr

/-- The Philox parameter record `(W, N, R, M[0..N/2-1], Wc[0..N/2-1])` (R5, R6). -/
structure PhiloxParams where
  /-- word width in bits, 32 or 64 -/
  W : Nat
  /-- words of the counter and of the output, 2 or 4 -/
  N : Nat
  /-- round count -/
  R : Nat
  /-- multiplication constants, `M[j]` multiplies counter word `2j` -/
  M : List Nat
  /-- Weyl increments, `Wc[j]` is added to key word `j` -/
  Wc : List Nat
  deriving DecidableEq, Repr

end Sys2Proof
end

