-- ==== Sys2Proof/Machine/State.lean ====
section
/-! DEFINITION. The state of one block (10_state.md R10 to R26) as plain data, the host transactions, and the state
after reset. Log entries 1 to 4, 7, 9 and 14. -/

namespace Sys2Proof.Machine

/-- Four 64-bit registers under one name, index 0 first: `CTR[0..3]`, `OP[0..3]`, `OUT[0..3]`. -/
structure Quad where
  w0 : Word
  w1 : Word
  w2 : Word
  w3 : Word
  deriving DecidableEq, Repr

/-- Two 64-bit registers under one name, index 0 first: `KEY[0..1]`. -/
structure Pair where
  w0 : Word
  w1 : Word
  deriving DecidableEq, Repr

/-- The fault causes of field `CAUSE` (60_exceptions.md R171); codes 4 to 15 never occur (R19). -/
inductive Cause where
  | noFault
  | illegalCmd
  | badReg
  | uninit
  deriving DecidableEq, Repr

/-- The flags and the field of register `STATUS` (R19). Bits 63:8 are reserved, always 0, and have no storage
(log entry 9). -/
structure Status where
  /-- `XV`, bit 0: the LCG state is valid -/
  xv : Bool
  /-- `KV`, bit 1: the Philox key is valid -/
  kv : Bool
  /-- `CV`, bit 2: the Philox counter is valid -/
  cv : Bool
  /-- `ERR`, bit 3: a fault has been recorded -/
  err : Bool
  /-- `CAUSE`, bits 7:4 -/
  cause : Cause
  deriving DecidableEq, Repr

/-- A host transaction (40_common_interface.md R80). -/
inductive Transaction where
  /-- `RegRead(idx)` (R81) -/
  | regRead (idx : RegIndex)
  /-- `RegWrite(idx, v)` (R82) -/
  | regWrite (idx : RegIndex) (v : Word)
  /-- `Reset` (70_reset_and_hazards.md R190) -/
  | reset
  deriving DecidableEq, Repr

/-- The state of one block: the registers of R10, then three fields of the model (`inst`, `pending`, `returned`). -/
structure State where
  /-- `X`, the LCG state (R11) -/
  x : Word
  /-- `CTR[0..3]`, the Philox counter (R12) -/
  ctr : Quad
  /-- `KEY[0..1]`, the Philox key (R13) -/
  key : Pair
  /-- `OP[0..3]`, the operand registers (R16) -/
  op : Quad
  /-- `OUT[0..3]`, the result registers (R17) -/
  out : Quad
  /-- `STATUS` (R19) -/
  status : Status
  /-- `FINFO`, the information word of the recorded fault (R20) -/
  finfo : Word
  /-- The model's: which instance this block is; no transaction writes it (R4, R5; log entry 1). -/
  inst : Instance
  /-- The model's: the transactions the host has still to issue, oldest first (R80; log entry 3). -/
  pending : List Transaction
  /-- The model's: the values that `RegRead` has returned, oldest first (R87; log entry 4). -/
  returned : List Word
  deriving DecidableEq, Repr

/-- Why a step could stop the machine with a fault: never. The block's own faults are recorded in `STATUS` and
`FINFO` and the machine goes on (R176, R177), so this type has no constructor and no step can answer one (safe). -/
inductive Fault where
  deriving DecidableEq, Repr

/-- Why an instruction could have no meaning. -/
inductive Refusal where
  /-- An arm of `exec` for an instruction without a meaning would answer this; every command has its meaning, so
  nothing raises it (safe). -/
  | notModelled (mnemonic : String)
  deriving DecidableEq, Repr

/-- Four registers of value 0. -/
def Quad.zero : Quad := ⟨0, 0, 0, 0⟩

/-- Two registers of value 0. -/
def Pair.zero : Pair := ⟨0, 0⟩

/-- The value of `STATUS` after reset: `XV = KV = CV = ERR = 0`, `CAUSE = 0` (R25). -/
def Status.zero : Status := ⟨false, false, false, false, .noFault⟩

/-- The reset state of an instance, nothing pending and nothing returned (R25, R190; log entries 3, 4, 7). -/
def State.resetOf (inst : Instance) : State where
  x := 0
  ctr := .zero
  key := .zero
  op := .zero
  out := .zero
  status := .zero
  finfo := 0
  inst := inst
  pending := []
  returned := []

/-- The instance that `State.reset` is: `LCG31 + P4x32`, the instance of the spec's examples. DESIGN CHOICE, unsafe
(log entry 2): the spec leaves the instance to the instantiation, and `State.resetOf` covers all eight. -/
def exampleInstance : Instance := ⟨.lcg31, .p4x32⟩

/-- The machine right after reset: every register 0 (R25). -/
def State.reset : State := State.resetOf exampleInstance

end Sys2Proof.Machine
end

