-- ==== Sys2Proof/Machine/Params.lean ====
section
/-! DEFINITION. The parameter tables of the variants (00_scope.md R4, R5, R6) and the constant register `CONFIG`
(10_state.md R18). -/

namespace Sys2Proof.Machine

/-- `(a, c, m)` of each LCG variant (R4). -/
def lcgParams : LcgVariant → LcgParams
  | .lcg31 => ⟨48271, 0, 2 ^ 31 - 1⟩
  | .lcg48 => ⟨0x5DEECE66D, 11, 2 ^ 48⟩

/-- `(W, N, R, M, Wc)` of each Philox variant (R5, R6). PRESUMED by the spec's own account: `M` and `Wc` are from
general knowledge (G1; log entry 8). -/
def philoxParams : PhiloxVariant → PhiloxParams
  | .p2x32 => ⟨32, 2, 10, [0xD256D193], [0x9E3779B9]⟩
  | .p2x64 => ⟨64, 2, 10, [0xD2B74407B1CE6E93], [0x9E3779B97F4A7C15]⟩
  | .p4x32 => ⟨32, 4, 10, [0xD2511F53, 0xCD9E8D57], [0x9E3779B9, 0xBB67AE85]⟩
  | .p4x64 => ⟨64, 4, 10, [0xD2E7470EE14C6C93, 0xCA5A826395121157], [0x9E3779B97F4A7C15, 0xBB67AE8584CAA73B]⟩

/-- The LCG record of the block a state belongs to. -/
def State.lcg (s : State) : LcgParams := lcgParams s.inst.lcg

/-- The Philox record of the block a state belongs to. -/
def State.phx (s : State) : PhiloxParams := philoxParams s.inst.phx

/-- `CONFIG.LCGV` (R4, R18). -/
def lcgCode : LcgVariant → Nat
  | .lcg31 => 0
  | .lcg48 => 1

/-- `CONFIG.PHXV` (R5, R18). -/
def philoxCode : PhiloxVariant → Nat
  | .p2x32 => 0
  | .p2x64 => 1
  | .p4x32 => 2
  | .p4x64 => 3

/-- The constant register `CONFIG`: `LCGV` in bits 3:0, `PHXV` in 7:4, `ROUNDS` in 15:8, the rest 0 (R18). -/
def configWord (inst : Instance) : Word :=
  BitVec.ofNat 64 (lcgCode inst.lcg + 16 * philoxCode inst.phx + 256 * (philoxParams inst.phx).R)

end Sys2Proof.Machine
end

