-- ==== Sys2Proof/Machine/LcgEngine.lean ====
section
/-! DEFINITION. The pure functions of the LCG engine (41_lcg.md R100, R104 to R107), one piece of logic over the record
`(a, c, m)` (R112). All arithmetic is exact, with an explicit `mod` (R9). -/

namespace Sys2Proof.Machine

/-- `lcg_f(x) = (a*x + c) mod m` (R100). -/
def lcgF (p : LcgParams) (x : Nat) : Nat := (p.a * x + p.c) % p.m

/-- `lcg_f^n(x)`: `n`-fold application (R100). -/
def lcgIter (p : LcgParams) : Nat → Nat → Nat
  | 0, x => x
  | n + 1, x => lcgF p (lcgIter p n x)

/-- `G_n = 1 + a + ... + a^(n-1)`, `G_0 = 0` (R104). -/
def geomSum (a : Nat) : Nat → Nat
  | 0 => 0
  | n + 1 => geomSum a n + a ^ n

/-- `A_n = a^n mod m` (R104). -/
def affineA (p : LcgParams) (n : Nat) : Nat := p.a ^ n % p.m

/-- `C_n = (c * G_n) mod m` (R104). -/
def affineC (p : LcgParams) (n : Nat) : Nat := p.c * geomSum p.a n % p.m

/-- The loop of `jump_coeffs` (R105) on `A`, `C`, `h`, `f`, for at most `fuel` iterations (log entry 12). -/
def jumpLoop (p : LcgParams) (fuel n A C h f : Nat) : Nat × Nat :=
  match fuel with
  | 0 => (A, C)
  | fuel + 1 =>
    if n = 0 then (A, C)
    else if n % 2 = 1 then
      jumpLoop p fuel (n / 2) (A * h % p.m) ((C * h + f) % p.m) (h * h % p.m) (f * (h + 1) % p.m)
    else
      jumpLoop p fuel (n / 2) A C (h * h % p.m) (f * (h + 1) % p.m)

/-- `jump_coeffs(n)` (R105). The loop ends when `n` has no bits left, so `floor(log2 n) + 1` iterations suffice
(R195; log entry 12). -/
def jumpCoeffs (p : LcgParams) (n : Nat) : Nat × Nat :=
  jumpLoop p (n.log2 + 1) n (1 % p.m) 0 (p.a % p.m) (p.c % p.m)

/-- The loop of `modpow` (R106) on `r`, `s`, for at most `fuel` iterations. -/
def modpowLoop (m fuel n r s : Nat) : Nat :=
  match fuel with
  | 0 => r
  | fuel + 1 =>
    if n = 0 then r
    else if n % 2 = 1 then modpowLoop m fuel (n / 2) (r * s % m) (s * s % m)
    else modpowLoop m fuel (n / 2) r (s * s % m)

/-- `modpow(b, n, m) = b^n mod m` by square-and-multiply (R106). -/
def modpow (b n m : Nat) : Nat :=
  modpowLoop m (n.log2 + 1) n (1 % m) (b % m)

/-- The extended Euclidean algorithm (R107): from remainders `r0`, `r1` with cofactors `t0`, `t1`, the last nonzero
remainder and its cofactor. `r1` falls at each round, so `r1 + 1` rounds suffice. -/
def euclidLoop (fuel r0 r1 : Nat) (t0 t1 : Int) : Nat × Int :=
  match fuel with
  | 0 => (r0, t0)
  | fuel + 1 =>
    if r1 = 0 then (r0, t0)
    else euclidLoop fuel r1 (r0 % r1) t1 (t0 - (r0 / r1 : Nat) * t1)

/-- `modinv(v, m)` (R107), for `m >= 1`: the inverse of `v` modulo `m` in `[0, m)`; none when `gcd(v, m) != 1`
(93_implementation_defined.md U10; log entry 10). -/
def modinv (v m : Nat) : Option Nat :=
  match euclidLoop (v % m + 1) m (v % m) 0 1 with
  | (1, t) => some (t % (m : Int)).toNat
  | (_, _) => none

/-- The permitted closed form of `C_n` (R107): `c*n mod m` when `a mod m = 1`; through the inverse of `a - 1` when it
has one; none otherwise (rule R105 must then be used). -/
def closedC (p : LcgParams) (n : Nat) : Option Nat :=
  if p.a % p.m = 1 then some (p.c * n % p.m)
  else
    match modinv ((p.a + p.m - 1) % p.m) p.m with
    | some u => some (p.c * ((affineA p n + p.m - 1) % p.m) * u % p.m)
    | none => none

end Sys2Proof.Machine
end

