-- ==== Sys2Proof/Syntax.lean ====
section
/-! DEFINITION. The commands of HPRNG-CORE, one constructor per row of spec/opcode_table.json (30_encoding.md R62).
A command carries no register number, no immediate and no mode: its operands are fixed registers (R61, R64). -/

namespace Sys2Proof

/-- The eight commands (R62). -/
inductive Instr where
  /-- `LCG.SEED`, word 0x1 (R101) -/
  | lcgSeed
  /-- `LCG.NEXT`, word 0x3 (R102) -/
  | lcgNext
  /-- `LCG.DISCARD`, word 0x4 (R103) -/
  | lcgDiscard
  /-- `PHX.SETKEY`, word 0x9 (R136) -/
  | phxSetKey
  /-- `PHX.SETCTR`, word 0xA (R137) -/
  | phxSetCtr
  /-- `PHX.NEXT`, word 0xB (R139) -/
  | phxNext
  /-- `PHX.JUMP`, word 0xC (R140) -/
  | phxJump
  /-- `PHX.GEN`, word 0xD (R138) -/
  | phxGen
  deriving DecidableEq, Repr

end Sys2Proof
end

