-- ==== Sys2Proof/WellFormed.lean ====
section
/-! DEFINITION. Which commands and which parameter records are well-formed. A record outside the ranges of R4 and R5
is no configuration of this hardware (93_implementation_defined.md U11). -/

namespace Sys2Proof

/-- A command has no field that could be out of range: format `C` carries no operand (R61, R64). -/
def Instr.wf : Instr → Bool
  | .lcgSeed => true
  | .lcgNext => true
  | .lcgDiscard => true
  | .phxSetKey => true
  | .phxSetCtr => true
  | .phxNext => true
  | .phxJump => true
  | .phxGen => true

/-- `2 <= m <= 2^64`; `a` and `c` are natural numbers by their type (R4). -/
def LcgParams.wf (p : LcgParams) : Bool :=
  decide (2 ≤ p.m) && decide (p.m ≤ 2 ^ 64)

/-- `W` is 32 or 64, `N` is 2 or 4, one `M` and one `Wc` per key lane, every constant below `2^W` (R5, R6). -/
def PhiloxParams.wf (p : PhiloxParams) : Bool :=
  (p.W == 32 || p.W == 64) && (p.N == 2 || p.N == 4) &&
    p.M.length == p.N / 2 && p.Wc.length == p.N / 2 &&
    p.M.all (fun v => decide (v < 2 ^ p.W)) && p.Wc.all (fun v => decide (v < 2 ^ p.W))

end Sys2Proof
end

