-- ==== Sys2Proof/Decode.lean ====
section
/-! DEFINITION. The decoder of command words (30_encoding.md R60 to R65), total on 64-bit words and rejecting by
name, and after it the encoder. The decoder reads the fields of R61; the encoder is the `match` column of R62. -/

namespace Sys2Proof

/-- Why a word is no command (R63). -/
inductive Illegal where
  /-- `RSV`, bits 63:4, is not 0 -/
  | reservedBits
  /-- `ENG = 0` with a function the LCG engine does not have: 0, 2, 5, 6 or 7 -/
  | reservedLcgFunction (fn : Nat)
  /-- `ENG = 1` with a function the Philox engine does not have: 0, 6 or 7 -/
  | reservedPhiloxFunction (fn : Nat)
  deriving DecidableEq, Repr

/-- `v[hi:lo]` is `(v div 2^lo) mod 2^(hi-lo+1)` (R8). -/
def field (w : Word) (hi lo : Nat) : Nat :=
  w.toNat / 2 ^ lo % 2 ^ (hi - lo + 1)

/-- Field `RSV`, bits 63:4 (R61). -/
def fieldRsv (w : Word) : Nat := field w 63 4

/-- Field `ENG`, bit 3 (R61). -/
def fieldEng (w : Word) : Nat := field w 3 3

/-- Field `FN`, bits 2:0 (R61). -/
def fieldFn (w : Word) : Nat := field w 2 0

/-- The function of the LCG engine that `FN` selects: 1 `INIT`, 3 `STEP`, 4 `JUMP` (R61, R62). -/
def decodeLcg (fn : Nat) : Except Illegal Instr :=
  match fn with
  | 1 => .ok .lcgSeed
  | 3 => .ok .lcgNext
  | 4 => .ok .lcgDiscard
  | _ => .error (.reservedLcgFunction fn)

/-- The function of the Philox engine that `FN` selects: 1 `INIT`, 2 `INITC`, 3 `STEP`, 4 `JUMP`, 5 `EMIT`
(R61, R62). -/
def decodePhilox (fn : Nat) : Except Illegal Instr :=
  match fn with
  | 1 => .ok .phxSetKey
  | 2 => .ok .phxSetCtr
  | 3 => .ok .phxNext
  | 4 => .ok .phxJump
  | 5 => .ok .phxGen
  | _ => .error (.reservedPhiloxFunction fn)

/-- `decode(w)` (R65): one of the eight commands, or illegal. It depends on no state and on no variant. -/
def decode (w : Word) : Except Illegal Instr :=
  if fieldRsv w ≠ 0 then .error .reservedBits
  else if fieldEng w = 0 then decodeLcg (fieldFn w)
  else decodePhilox (fieldFn w)

/-- The command word of a command: the `match` column of R62. -/
def encode (i : Instr) : Word :=
  match i with
  | .lcgSeed => 0x1
  | .lcgNext => 0x3
  | .lcgDiscard => 0x4
  | .phxSetKey => 0x9
  | .phxSetCtr => 0xA
  | .phxNext => 0xB
  | .phxJump => 0xC
  | .phxGen => 0xD

/-- The command word an opcode-table row of `nbits` bits with value `w` stands for, every bit above `nbits` 0. The
register port moves whole 64-bit numbers, so there is no byte order to choose (R44, R60). -/
def tableWord (nbits w : Nat) : Word :=
  BitVec.ofNat 64 (w % 2 ^ nbits)

/-- The command the decoder reads from an opcode-table row's bits; none where it refuses. -/
def decodeTableWord (nbits w : Nat) : Option Instr :=
  match decode (tableWord nbits w) with
  | .ok i => some i
  | .error _ => none

end Sys2Proof
end

