-- ==== Sys2Proof/Machine/Flags.lean ====
section
/-! DEFINITION. Register `STATUS` as a word (10_state.md R19) and the validity check of a command
(40_common_interface.md R83). No arithmetic operation sets a flag (R23). -/

namespace Sys2Proof.Machine

/-- The code of a cause in field `CAUSE` (60_exceptions.md R171). -/
def causeCode : Cause → Nat
  | .noFault => 0
  | .illegalCmd => 1
  | .badReg => 2
  | .uninit => 3

/-- `STATUS` as the host reads it: `XV` in bit 0, `KV` in bit 1, `CV` in bit 2, `ERR` in bit 3, `CAUSE` in bits 7:4,
the reserved bits 63:8 zero (R19). -/
def statusWord (t : Status) : Word :=
  BitVec.ofNat 64
    (t.xv.toNat + 2 * t.kv.toNat + 4 * t.cv.toNat + 8 * t.err.toNat + 16 * causeCode t.cause)

/-- `ready(op)` (R83): the engine state that the command needs has been created since reset. -/
def ready (i : Instr) (t : Status) : Bool :=
  match i with
  | .lcgSeed => true
  | .phxSetKey => true
  | .phxSetCtr => true
  | .lcgNext => t.xv
  | .lcgDiscard => t.xv
  | .phxJump => t.cv
  | .phxGen => t.cv && t.kv
  | .phxNext => t.cv && t.kv

end Sys2Proof.Machine
end

