-- ==== Sys2Proof/Machine/Operands.lean ====
section
/-! DEFINITION. Operand assembly (30_encoding.md R64), reading the words in use of a register group as numbers, and
delivering words to a register group (20_memory.md R45). Engine vectors are lists of naturals, index 0 first (R8). -/

namespace Sys2Proof.Machine

/-- The numbers in four registers, index 0 first. -/
def Quad.toNats (q : Quad) : List Nat := [q.w0.toNat, q.w1.toNat, q.w2.toNat, q.w3.toNat]

/-- The numbers in two registers, index 0 first. -/
def Pair.toNats (q : Pair) : List Nat := [q.w0.toNat, q.w1.toNat]

/-- Register content `old` replaced by entry `i` of `vs`, zero-extended to 64 bits; kept where `vs` has no entry `i`. -/
def deliver (vs : List Nat) (i : Nat) (old : Word) : Word :=
  match vs[i]? with
  | some v => BitVec.ofNat 64 v
  | none => old

/-- Entry `i` of `vs` goes to register `i`; registers beyond the entries keep their value (R17, R12). -/
def Quad.store (q : Quad) (vs : List Nat) : Quad :=
  ⟨deliver vs 0 q.w0, deliver vs 1 q.w1, deliver vs 2 q.w2, deliver vs 3 q.w3⟩

/-- Entry `j` of `vs` goes to register `j`; registers beyond the entries keep their value (R13). -/
def Pair.store (q : Pair) (vs : List Nat) : Pair :=
  ⟨deliver vs 0 q.w0, deliver vs 1 q.w1⟩

/-- The seed `s`, the discard count `n` or the jump `delta`: all 64 bits of `OP[0]`, unsigned (R64). -/
def scalarOperand (s : State) : Nat := s.op.w0.toNat

/-- Key words `k[j] = OP[j] mod 2^W` for `j` in `0..N/2-1` (R64). -/
def keyOperand (s : State) : List Nat :=
  (s.op.toNats.take (s.phx.N / 2)).map (· % 2 ^ s.phx.W)

/-- Counter words `c[i] = OP[i] mod 2^W` for `i` in `0..N-1` (R64). -/
def counterOperand (s : State) : List Nat :=
  (s.op.toNats.take s.phx.N).map (· % 2 ^ s.phx.W)

/-- `CTR[0..N-1]` (R12). -/
def counterWords (s : State) : List Nat := s.ctr.toNats.take s.phx.N

/-- `KEY[0..N/2-1]` (R13). -/
def keyWords (s : State) : List Nat := s.key.toNats.take (s.phx.N / 2)

end Sys2Proof.Machine
end

