-- ==== Sys2Proof/Machine/Ops.lean ====
section
/-! DEFINITION. The named operations over the registers: the register map (20_memory.md R41), reading and writing a
register by name, the state updates, taking a fault (60_exceptions.md R176), the reset operation (70_reset_and_hazards.md
R190), and the check that stands before every command (40_common_interface.md R83). -/

namespace Sys2Proof.Machine

/-- The registers of the map (R41). -/
inductive Reg where
  | config
  | status
  | finfo
  | cmd
  | op (i : Fin 4)
  | out (i : Fin 4)
  | x
  | ctr (i : Fin 4)
  | key (j : Fin 2)
  deriving DecidableEq, Repr

/-- What the host may do with a register (R41): `RO`, `WO` or `RW`. -/
inductive Access where
  | readOnly
  | writeOnly
  | readWrite
  deriving DecidableEq, Repr

/-- The register map (R41): the register an index names; none where the index is unmapped. -/
def regAt (idx : RegIndex) : Option Reg :=
  match idx.toNat with
  | 0 => some .config
  | 1 => some .status
  | 2 => some .finfo
  | 3 => some .cmd
  | 4 => some (.op 0)
  | 5 => some (.op 1)
  | 6 => some (.op 2)
  | 7 => some (.op 3)
  | 8 => some (.out 0)
  | 9 => some (.out 1)
  | 10 => some (.out 2)
  | 11 => some (.out 3)
  | 12 => some .x
  | 16 => some (.ctr 0)
  | 17 => some (.ctr 1)
  | 18 => some (.ctr 2)
  | 19 => some (.ctr 3)
  | 20 => some (.key 0)
  | 21 => some (.key 1)
  | _ => none

/-- The access column of R41. -/
def regAccess : Reg → Access
  | .config => .readOnly
  | .status => .readOnly
  | .finfo => .readOnly
  | .cmd => .writeOnly
  | .op _ => .readWrite
  | .out _ => .readOnly
  | .x => .readOnly
  | .ctr _ => .readOnly
  | .key _ => .readOnly

/-- The register a `RegRead(idx)` may read: mapped with access RO or RW (R81). -/
def readableReg (idx : RegIndex) : Option Reg :=
  match regAt idx with
  | some r => if regAccess r = .writeOnly then none else some r
  | none => none

/-- Register `i` of four. -/
def Quad.get (q : Quad) (i : Fin 4) : Word :=
  match i with
  | 0 => q.w0
  | 1 => q.w1
  | 2 => q.w2
  | 3 => q.w3

/-- Register `i` of four replaced by `v`. -/
def Quad.set (q : Quad) (i : Fin 4) (v : Word) : Quad :=
  match i with
  | 0 => { q with w0 := v }
  | 1 => { q with w1 := v }
  | 2 => { q with w2 := v }
  | 3 => { q with w3 := v }

/-- Register `j` of two. -/
def Pair.get (q : Pair) (j : Fin 2) : Word :=
  match j with
  | 0 => q.w0
  | 1 => q.w1

/-- The current 64-bit value of a register (R81). `CMD` stores nothing (R21) and is never read: `readableReg` leaves
it out. -/
def readReg (r : Reg) (s : State) : Word :=
  match r with
  | .config => configWord s.inst
  | .status => statusWord s.status
  | .finfo => s.finfo
  | .cmd => 0
  | .op i => s.op.get i
  | .out i => s.out.get i
  | .x => s.x
  | .ctr i => s.ctr.get i
  | .key j => s.key.get j

/-- `X <- v`. -/
def State.setX (s : State) (v : Nat) : State := { s with x := BitVec.ofNat 64 v }

/-- `CTR[i] <- vs[i]` for each entry of `vs`. -/
def State.setCtr (s : State) (vs : List Nat) : State := { s with ctr := s.ctr.store vs }

/-- `KEY[j] <- vs[j]` for each entry of `vs`. -/
def State.setKey (s : State) (vs : List Nat) : State := { s with key := s.key.store vs }

/-- `OUT[i] <- vs[i]` for each entry of `vs`, zero-extended. -/
def State.setOut (s : State) (vs : List Nat) : State := { s with out := s.out.store vs }

/-- `OP[i] <- v`, all 64 bits (R82). -/
def State.setOp (s : State) (i : Fin 4) (v : Word) : State := { s with op := s.op.set i v }

/-- `STATUS.XV <- 1`. -/
def State.markX (s : State) : State := { s with status := { s.status with xv := true } }

/-- `STATUS.KV <- 1`. -/
def State.markKey (s : State) : State := { s with status := { s.status with kv := true } }

/-- `STATUS.CV <- 1`. -/
def State.markCtr (s : State) : State := { s with status := { s.status with cv := true } }

/-- The value a `RegRead` returns goes to the host (R81, R87; log entry 4). -/
def State.answer (s : State) (v : Word) : State := { s with returned := s.returned ++ [v] }

/-- The host issues its oldest transaction: `rest` is what stays pending (R80; log entry 3). -/
def State.setPending (s : State) (rest : List Transaction) : State := { s with pending := rest }

/-- Taking a fault, `raise Cause(info)` (R176): the record, and nothing else. -/
def raise (cause : Cause) (info : Word) (s : State) : State :=
  { s with status := { s.status with err := true, cause := cause }, finfo := info }

/-- The effect of `Reset` on the block (R190): the only way out of the faulted state; there is no return from a fault
(R178). The instance is constant, and the host's own lists are not the block's (log entry 7). -/
def resetBlock (s : State) : State :=
  { State.resetOf s.inst with pending := s.pending, returned := s.returned }

/-- `Execute` after decoding (R83): a command whose engine state is not valid raises `UNINIT(w)`, `w` its own word, and
does nothing else (R174); otherwise it is performed. -/
def whenReady (i : Instr) (perform : State → State) (s : State) : Host.Outcome State Fault Refusal :=
  if ready i s.status then .next (perform s) else .next (raise .uninit (encode i) s)

end Sys2Proof.Machine
end

