-- ==== Sys2Proof/Machine/Lcg.lean ====
section
/-! DEFINITION. The commands of the LCG engine (41_lcg.md R101 to R103). They are reached with `STATUS.ERR = 0` only
(40_common_interface.md R82, R83; log entry 6). -/

namespace Sys2Proof.Machine

/-- `LCG.SEED` (R101): `X <- OP[0] mod m`, `XV <- 1`. -/
def execLcgSeed (s : State) : Host.Outcome State Fault Refusal :=
  whenReady .lcgSeed (fun s => (s.setX (scalarOperand s % s.lcg.m)).markX) s

/-- `LCG.NEXT` (R102): `X <- lcg_f(X)`, `OUT[0] <- X` (the new value). -/
def execLcgNext (s : State) : Host.Outcome State Fault Refusal :=
  whenReady .lcgNext
    (fun s =>
      let x' := lcgF s.lcg s.x.toNat
      (s.setX x').setOut [x'])
    s

/-- `LCG.DISCARD` (R103): `X <- (A*X + C) mod m` with `(A, C) = jump_coeffs(OP[0])`; nothing is emitted. -/
def execLcgDiscard (s : State) : Host.Outcome State Fault Refusal :=
  whenReady .lcgDiscard
    (fun s =>
      let (A, C) := jumpCoeffs s.lcg (scalarOperand s)
      s.setX ((A * s.x.toNat + C) % s.lcg.m))
    s

end Sys2Proof.Machine
end

