-- ==== Sys2Proof/Machine/PhiloxEngine.lean ====
section
/-! DEFINITION. The pure functions of the Philox engine (42_philox.md R130 to R135, R143), one piece of logic over the
record `(W, N, R, M, Wc)` (R145). A vector is a list of naturals, index 0 first. -/

namespace Sys2Proof.Machine

/-- Entry `i` of a vector. A vector has all the words a rule reads; beyond its end this answers 0 (log entry 11). -/
def lane (vs : List Nat) (i : Nat) : Nat := vs.getD i 0

/-- `mulhilo(u, v)` (R130): the halves `(hi, lo)` of the exact product. -/
def mulhilo (W u v : Nat) : Nat × Nat := (u * v / 2 ^ W, u * v % 2 ^ W)

/-- The round function for `N = 2` (R131). -/
def round2 (p : PhiloxParams) (c k : List Nat) : List Nat :=
  let (hi, lo) := mulhilo p.W (lane c 0) (lane p.M 0)
  [hi ^^^ lane k 0 ^^^ lane c 1, lo]

/-- The round function for `N = 4` (R132): the products cross between the pairs, the odd words and the key words stay.
PRESUMED by the spec's own account: the crossing is from general knowledge (G2; log entry 8). -/
def round4 (p : PhiloxParams) (c k : List Nat) : List Nat :=
  let (hi0, lo0) := mulhilo p.W (lane c 0) (lane p.M 0)
  let (hi1, lo1) := mulhilo p.W (lane c 2) (lane p.M 1)
  [hi1 ^^^ lane k 0 ^^^ lane c 1, lo1, hi0 ^^^ lane k 1 ^^^ lane c 3, lo0]

/-- The round function of the record: `round2` if `N = 2`, `round4` if `N = 4` (R134); no other `N` is a
configuration (log entry 11). -/
def philoxRound (p : PhiloxParams) (c k : List Nat) : List Nat :=
  if p.N = 2 then round2 p c k else round4 p c k

/-- One Weyl increment of the working key: `k[j] <- (k[j] + Wc[j]) mod 2^W` for each key lane (R133, R134). -/
def bumpKey (p : PhiloxParams) (k : List Nat) : List Nat :=
  (List.range (p.N / 2)).map fun j => (lane k j + lane p.Wc j) % 2 ^ p.W

/-- The round key of round `r`: `rk_r[j] = (k[j] + r * Wc[j]) mod 2^W` (R133). -/
def roundKey (p : PhiloxParams) (k : List Nat) (r : Nat) : List Nat :=
  (List.range (p.N / 2)).map fun j => (lane k j + r * lane p.Wc j) % 2 ^ p.W

/-- The loop of `generate` (R134) from round `r` on, `left` rounds to go, on the working copies `c`, `k`. -/
def generateLoop (p : PhiloxParams) (left r : Nat) (c k : List Nat) : List Nat :=
  match left with
  | 0 => c
  | left + 1 =>
    let k' := if r > 0 then bumpKey p k else k
    generateLoop p left (r + 1) (philoxRound p c k') k'

/-- `generate(ctr, key)` (R134): `R` rounds on working copies. -/
def generate (p : PhiloxParams) (ctr key : List Nat) : List Nat :=
  generateLoop p p.R 0 ctr key

/-- The counter as one number: the sum over `i` in `0..N-1` of `ctr[i] * 2^(W*i)` (R43, R135). -/
def counterValue (p : PhiloxParams) (ctr : List Nat) : Nat :=
  ((List.range p.N).map fun i => lane ctr i * 2 ^ (p.W * i)).sum

/-- `ctr_add(ctr, delta)` (R135): integer addition modulo `2^(N*W)`, split into words again. -/
def ctrAdd (p : PhiloxParams) (ctr : List Nat) (delta : Nat) : List Nat :=
  let v := (counterValue p ctr + delta) % 2 ^ (p.N * p.W)
  (List.range p.N).map fun i => v / 2 ^ (p.W * i) % 2 ^ p.W

/-- The loop of `ctr_add_words` (R143) from word `i` on, `left` words to go, with the carry so far. -/
def rippleLoop (p : PhiloxParams) (ctr : List Nat) (delta left i carry : Nat) : List Nat :=
  match left with
  | 0 => []
  | left + 1 =>
    let s := lane ctr i + delta / 2 ^ (p.W * i) % 2 ^ p.W + carry
    s % 2 ^ p.W :: rippleLoop p ctr delta left (i + 1) (s / 2 ^ p.W)

/-- `ctr_add_words(ctr, delta)` (R143): the ripple-carry form; the final carry is discarded. -/
def ctrAddWords (p : PhiloxParams) (ctr : List Nat) (delta : Nat) : List Nat :=
  rippleLoop p ctr delta p.N 0 0

end Sys2Proof.Machine
end

