-- ==== Sys2Proof/Machine/Philox.lean ====
section
/-! DEFINITION. The commands of the Philox engine (42_philox.md R136 to R140). They are reached with `STATUS.ERR = 0`
only (40_common_interface.md R82, R83; log entry 6). -/

namespace Sys2Proof.Machine

/-- `PHX.SETKEY` (R136): `KEY[j] <- OP[j] mod 2^W` for `j` in `0..N/2-1`, `KV <- 1`. -/
def execPhxSetKey (s : State) : Host.Outcome State Fault Refusal :=
  whenReady .phxSetKey (fun s => (s.setKey (keyOperand s)).markKey) s

/-- `PHX.SETCTR` (R137): `CTR[i] <- OP[i] mod 2^W` for `i` in `0..N-1`, `CV <- 1`. -/
def execPhxSetCtr (s : State) : Host.Outcome State Fault Refusal :=
  whenReady .phxSetCtr (fun s => (s.setCtr (counterOperand s)).markCtr) s

/-- `PHX.GEN` (R138): `OUT[0..N-1] <- generate(CTR, KEY)`; counter and key stay. -/
def execPhxGen (s : State) : Host.Outcome State Fault Refusal :=
  whenReady .phxGen (fun s => s.setOut (generate s.phx (counterWords s) (keyWords s))) s

/-- `PHX.NEXT` (R139): `OUT[0..N-1] <- generate(CTR, KEY)` with the counter before the increment, then
`CTR <- ctr_add(CTR, 1)`. -/
def execPhxNext (s : State) : Host.Outcome State Fault Refusal :=
  whenReady .phxNext
    (fun s =>
      (s.setOut (generate s.phx (counterWords s) (keyWords s))).setCtr (ctrAdd s.phx (counterWords s) 1))
    s

/-- `PHX.JUMP` (R140): `CTR <- ctr_add(CTR, OP[0])`; nothing is emitted. -/
def execPhxJump (s : State) : Host.Outcome State Fault Refusal :=
  whenReady .phxJump (fun s => s.setCtr (ctrAdd s.phx (counterWords s) (scalarOperand s))) s

end Sys2Proof.Machine
end

