-- ==== Sys2Proof/Machine/Dispatch.lean ====
section
/-! DEFINITION. The one dispatch from a command to its meaning (40_common_interface.md R83, `perform op`). -/

namespace Sys2Proof.Machine

/-- The meaning of a decoded command (30_encoding.md R62, column `rule`). -/
def exec (i : Instr) (s : State) : Host.Outcome State Fault Refusal :=
  match i with
  | .lcgSeed => Sys2Proof.Machine.execLcgSeed s
  | .lcgNext => Sys2Proof.Machine.execLcgNext s
  | .lcgDiscard => Sys2Proof.Machine.execLcgDiscard s
  | .phxSetKey => Sys2Proof.Machine.execPhxSetKey s
  | .phxSetCtr => Sys2Proof.Machine.execPhxSetCtr s
  | .phxNext => Sys2Proof.Machine.execPhxNext s
  | .phxJump => Sys2Proof.Machine.execPhxJump s
  | .phxGen => Sys2Proof.Machine.execPhxGen s

end Sys2Proof.Machine
end

