-- ==== Sys2Proof/Machine/Port.lean ====
section
/-! DEFINITION. The register port (40_common_interface.md R80 to R83): the transactions `RegRead`, `RegWrite`, `Reset`,
and how a written `CMD` word is executed. -/

namespace Sys2Proof.Machine

/-- `Execute(w)` (R83): an illegal word raises `ILLEGAL_CMD(w)`; a legal one is the command's meaning. -/
def execute (w : Word) (s : State) : Host.Outcome State Fault Refusal :=
  match decode w with
  | .error _ => .next (raise .illegalCmd w s)
  | .ok i => exec i s

/-- `RegRead(idx) -> v` (R81): the value returned, and the state after. A read of `CMD` or of an unmapped index returns
0 and, unless the block is faulted already, raises `BAD_REG(idx)` (R173, R177). -/
def regRead (idx : RegIndex) (s : State) : Word × State :=
  match readableReg idx with
  | some r => (readReg r s, s)
  | none => (0, if s.status.err then s else raise .badReg (BitVec.ofNat 64 idx.toNat) s)

/-- `RegWrite(idx, v)` (R82): ignored when faulted; `OP` stores; `CMD` executes; every other index raises
`BAD_REG(256 + idx)` (R173). -/
def regWrite (idx : RegIndex) (v : Word) (s : State) : Host.Outcome State Fault Refusal :=
  if s.status.err then .next s
  else
    match regAt idx with
    | some (.op i) => .next (s.setOp i v)
    | some .cmd => execute v s
    | _ => .next (raise .badReg (BitVec.ofNat 64 (256 + idx.toNat)) s)

/-- One transaction, performed whole (R80, R48). -/
def perform (t : Transaction) (s : State) : Host.Outcome State Fault Refusal :=
  match t with
  | .regRead idx =>
    let (v, s') := regRead idx s
    .next (s'.answer v)
  | .regWrite idx v => regWrite idx v s
  | .reset => .next (resetBlock s)

/-- The host issues its oldest pending transaction and the block performs it; with nothing pending the block does
nothing (R80; log entries 3, 5). -/
def hostStep (s : State) : Host.Outcome State Fault Refusal :=
  match s.pending with
  | [] => .next s
  | t :: rest => perform t (s.setPending rest)

/-- The transaction `RegWrite(3, w)` that writes command word `w` to `CMD` (R60, R66). -/
def commandWrite (w : Word) : Transaction := .regWrite 3 w

/-- `s` with the transaction `RegWrite(3, w)` put before all that the host has pending (log entry 3). -/
def putCommand (s : State) (w : Word) : State := s.setPending (commandWrite w :: s.pending)

end Sys2Proof.Machine
end

