-- ==== Sys2Proof/Machine/Step.lean ====
section
/-! DEFINITION. One step of the machine: one host transaction (40_common_interface.md R80). -/

namespace Sys2Proof.Machine

/-- One step: the oldest pending transaction, performed whole (R80). -/
def step (s : State) : Host.Outcome State Fault Refusal := hostStep s

/-- `s` with an opcode-table row's command word as the next thing the host writes to `CMD`, so that the very next step
executes it. The block fetches no instructions (10_state.md R22); a program is what the host issues (log entry 3). -/
def State.withFetchWord (s : State) (nbits w : Nat) : State := putCommand s (tableWord nbits w)

end Sys2Proof.Machine
end

