-- ==== Sys2Proof/Machine/Assembler.lean ====
section
/-! DEFINITION. The assembler notation and the pseudo-instructions (30_encoding.md R66, R67) as lists of host
transactions. Each is an abbreviation; the block sees the transactions only. -/

namespace Sys2Proof.Machine

/-- The index of a register of the map (20_memory.md R41). -/
def regIndex : Reg → RegIndex
  | .config => 0
  | .status => 1
  | .finfo => 2
  | .cmd => 3
  | .op i => BitVec.ofNat 8 (4 + i.val)
  | .out i => BitVec.ofNat 8 (8 + i.val)
  | .x => 12
  | .ctr i => BitVec.ofNat 8 (16 + i.val)
  | .key j => BitVec.ofNat 8 (20 + j.val)

/-- `wr <reg>, <value>` (R66). -/
def asmWr (r : Reg) (v : Word) : Transaction := .regWrite (regIndex r) v

/-- `rd <reg>` (R66). -/
def asmRd (r : Reg) : Transaction := .regRead (regIndex r)

/-- `cmd <MNEMONIC>` (R66). -/
def asmCmd (i : Instr) : Transaction := commandWrite (encode i)

/-- `cmdw <value>` (R66). -/
def asmCmdw (w : Word) : Transaction := commandWrite w

/-- `rd OUT0 ; ... ; rd OUT<N-1>` (R67). -/
def asmReadOut (N : Nat) : List Transaction :=
  ([0, 1, 2, 3].take N).map fun i => asmRd (.out i)

/-- `lcg.seed s` (R67). -/
def pseudoLcgSeed (seed : Word) : List Transaction := [asmWr (.op 0) seed, asmCmd .lcgSeed]

/-- `lcg.next` (R67). -/
def pseudoLcgNext : List Transaction := [asmCmd .lcgNext, asmRd (.out 0)]

/-- `lcg.discard n` (R67). -/
def pseudoLcgDiscard (n : Word) : List Transaction := [asmWr (.op 0) n, asmCmd .lcgDiscard]

/-- `phx.setkey k0` (`N = 2`) (R67). -/
def pseudoPhxSetKey2 (k0 : Word) : List Transaction := [asmWr (.op 0) k0, asmCmd .phxSetKey]

/-- `phx.setkey k0, k1` (`N = 4`) (R67). -/
def pseudoPhxSetKey4 (k0 k1 : Word) : List Transaction :=
  [asmWr (.op 0) k0, asmWr (.op 1) k1, asmCmd .phxSetKey]

/-- `phx.setctr c0, c1` (`N = 2`) (R67). -/
def pseudoPhxSetCtr2 (c0 c1 : Word) : List Transaction :=
  [asmWr (.op 0) c0, asmWr (.op 1) c1, asmCmd .phxSetCtr]

/-- `phx.setctr c0, c1, c2, c3` (`N = 4`) (R67). -/
def pseudoPhxSetCtr4 (c0 c1 c2 c3 : Word) : List Transaction :=
  [asmWr (.op 0) c0, asmWr (.op 1) c1, asmWr (.op 2) c2, asmWr (.op 3) c3, asmCmd .phxSetCtr]

/-- `phx.gen` (R67). -/
def pseudoPhxGen (N : Nat) : List Transaction := asmCmd .phxGen :: asmReadOut N

/-- `phx.next` (R67). -/
def pseudoPhxNext (N : Nat) : List Transaction := asmCmd .phxNext :: asmReadOut N

/-- `phx.jump d` (R67). -/
def pseudoPhxJump (d : Word) : List Transaction := [asmWr (.op 0) d, asmCmd .phxJump]

end Sys2Proof.Machine
end

