-- ==== Sys2Proof/Machine/Run.lean ====
section
/-! DEFINITION. Runs of several transactions or commands (40_common_interface.md R87) and the output stream of an
engine (R85). -/

namespace Sys2Proof.Machine

/-- A host program performed from its first transaction to its last (R87). -/
def runTransactions (ts : List Transaction) (s : State) : Host.Outcome State Fault Refusal :=
  match ts with
  | [] => .next s
  | t :: rest =>
    match perform t s with
    | .next s' => runTransactions rest s'
    | .fault r => .fault r
    | .refused r => .refused r

/-- A list of commands executed in order, with nothing between them. -/
def execList (is : List Instr) (s : State) : Host.Outcome State Fault Refusal :=
  match is with
  | [] => .next s
  | i :: rest =>
    match exec i s with
    | .next s' => execList rest s'
    | .fault r => .fault r
    | .refused r => .refused r

/-- The two engines (00_scope.md R1). -/
inductive Engine where
  | lcg
  | philox
  deriving DecidableEq, Repr

/-- The engine a command belongs to: field `ENG` (30_encoding.md R61). -/
def engineOf : Instr → Engine
  | .lcgSeed => .lcg
  | .lcgNext => .lcg
  | .lcgDiscard => .lcg
  | .phxSetKey => .philox
  | .phxSetCtr => .philox
  | .phxNext => .philox
  | .phxJump => .philox
  | .phxGen => .philox

/-- The emitting commands: `LCG.NEXT`, `PHX.GEN`, `PHX.NEXT` (R85). -/
def isEmitting : Instr → Bool
  | .lcgSeed => false
  | .lcgNext => true
  | .lcgDiscard => false
  | .phxSetKey => false
  | .phxSetCtr => false
  | .phxNext => true
  | .phxJump => false
  | .phxGen => true

/-- The words of a draw, found in `OUT` after an emitting command: `OUT[0]` for the LCG, `OUT[0..N-1]` in lane order for
Philox (R85, 42_philox.md R144). -/
def drawWords (e : Engine) (s : State) : List Word :=
  match e with
  | .lcg => [s.out.w0]
  | .philox => [s.out.w0, s.out.w1, s.out.w2, s.out.w3].take s.phx.N

/-- Whether a transaction, issued in state `s`, performs an emitting command of engine `e` (R82, R83, R85). -/
def emits (e : Engine) (t : Transaction) (s : State) : Bool :=
  match t with
  | .regWrite idx w =>
    match regAt idx, decode w with
    | some .cmd, .ok i => !s.status.err && isEmitting i && engineOf i == e && ready i s.status
    | _, _ => false
  | .regRead _ => false
  | .reset => false

/-- The output stream of engine `e` in a run: the words of its draws, in the order executed (R85). -/
def outputStream (e : Engine) (ts : List Transaction) (s : State) : List Word :=
  match ts with
  | [] => []
  | t :: rest =>
    match perform t s with
    | .next s' => (if emits e t s then drawWords e s' else []) ++ outputStream e rest s'
    | .fault _ => []
    | .refused _ => []

end Sys2Proof.Machine
end

