-- ==== Sys2Proof/Safety.lean ====
section
/-! DEFINITION. What a good end of a run is (40_common_interface.md R87), and the invariant of the block's state that
the write rules keep (10_state.md R11 to R14, R19, R20; 60_exceptions.md R171 to R174). -/

namespace Sys2Proof.Machine

/-- A good end of a run: no fault has been recorded (R87, R177). -/
def State.good (s : State) : Prop := s.status.err = false

/-- The state invariant (R14: it holds in every reachable state). -/
structure State.Inv (s : State) : Prop where
  /-- `X` lies in `[0, m)` (R11) -/
  xInRange : s.x.toNat < s.lcg.m
  /-- each counter word is below `2^W` (R12, R14) -/
  ctrInRange : ∀ i, (s.ctr.get i).toNat < 2 ^ s.phx.W
  /-- each key word is below `2^W` (R13, R14) -/
  keyInRange : ∀ j, (s.key.get j).toNat < 2 ^ s.phx.W
  /-- `CTR[2]`, `CTR[3]` of a 2-word variant read 0 (R12) -/
  ctrUnused : s.phx.N = 2 → s.ctr.w2 = 0 ∧ s.ctr.w3 = 0
  /-- `KEY[1]` of a 2-word variant reads 0 (R13) -/
  keyUnused : s.phx.N = 2 → s.key.w1 = 0
  /-- `OUT[2]`, `OUT[3]` of a 2-word variant read 0 (R17, U9) -/
  outUnused : s.phx.N = 2 → s.out.w2 = 0 ∧ s.out.w3 = 0
  /-- `X` keeps its reset value until it is seeded (R11, R19, R25) -/
  xUnseeded : s.status.xv = false → s.x = 0
  /-- `CTR` keeps its reset value until it is set (R12, R19, R25) -/
  ctrUnset : s.status.cv = false → s.ctr = .zero
  /-- `KEY` keeps its reset value until it is set (R13, R19, R25) -/
  keyUnset : s.status.kv = false → s.key = .zero
  /-- `ERR = 0` exactly when `CAUSE = 0` (R19) -/
  errCause : s.status.err = false ↔ s.status.cause = .noFault
  /-- `FINFO` is 0 while `ERR = 0` (R20) -/
  finfoClear : s.status.err = false → s.finfo = 0
  /-- after `ILLEGAL_CMD`, `FINFO` holds an illegal word (R172) -/
  illegalRecord : s.status.cause = .illegalCmd → ∃ e, decode s.finfo = .error e
  /-- after `BAD_REG`, `FINFO` holds an index that may not be read, or 256 plus one that may not be written (R173) -/
  badRegRecord : s.status.cause = .badReg →
    ∃ idx : RegIndex,
      (s.finfo.toNat = idx.toNat ∧ readableReg idx = none) ∨
      (s.finfo.toNat = 256 + idx.toNat ∧ idx.toNat ≠ 3 ∧ (idx.toNat < 4 ∨ 7 < idx.toNat))
  /-- after `UNINIT`, `FINFO` holds the word of a command whose engine state is not valid (R174) -/
  uninitRecord : s.status.cause = .uninit → ∃ i, s.finfo = encode i ∧ ready i s.status = false

end Sys2Proof.Machine
end

