-- ==== Sys2Proof/Certificates/Slice0/Obligations.lean ====
section
/-! DEFINITION. The statements for the provers. Each docstring names the rule of spec/ that the statement formalises, or
says that it rests on a choice of the model and names the log entry. -/

open Sys2Proof Sys2Proof.Machine

/-! ### Encoding -/

/-- R62, R65: encoding and decoding are inverse to each other, on every command and on every 64-bit word. -/
def Obligations.EncodeAndDecodeAreInverse : Prop :=
  (∀ i : Instr, i.wf = true → decode (encode i) = .ok i) ∧
  (∀ (w : Word) (i : Instr), decode w = .ok i → w = encode i) ∧
  (∀ i j : Instr, encode i = encode j → i = j)

/-- R65: each of the eight words decodes to its command, and no other word decodes to any; R63: every other word is
illegal. -/
def Obligations.DecodeAcceptsExactlyTheEightWords : Prop :=
  ∀ w : Word,
    (decode w = .ok .lcgSeed ↔ w = 0x1) ∧
    (decode w = .ok .lcgNext ↔ w = 0x3) ∧
    (decode w = .ok .lcgDiscard ↔ w = 0x4) ∧
    (decode w = .ok .phxSetKey ↔ w = 0x9) ∧
    (decode w = .ok .phxSetCtr ↔ w = 0xA) ∧
    (decode w = .ok .phxNext ↔ w = 0xB) ∧
    (decode w = .ok .phxJump ↔ w = 0xC) ∧
    (decode w = .ok .phxGen ↔ w = 0xD) ∧
    ((∃ e, decode w = .error e) ↔ w ∉ ([0x1, 0x3, 0x4, 0x9, 0xA, 0xB, 0xC, 0xD] : List Word))

/-- 30_encoding.md section 2 (R62): a sample of written-out words of both engines, and of illegal words, decoded. -/
def Obligations.SampleWordsDecodeAsListed : Prop :=
  decode 0b0011 = .ok .lcgNext ∧ decode 0b0100 = .ok .lcgDiscard ∧
  decode 0b1001 = .ok .phxSetKey ∧ decode 0b1101 = .ok .phxGen ∧
  decode 0b0000 = .error (.reservedLcgFunction 0) ∧
  decode 0b0101 = .error (.reservedLcgFunction 5) ∧
  decode 0b1110 = .error (.reservedPhiloxFunction 6) ∧
  decode 0b10011 = .error .reservedBits

/-! ### The step, the port and the faults -/

/-- R80, R48; how the host's transactions stand in the state is the model's choice (log entries 3 and 4). The step
performs the oldest pending transaction whole; a read's value is handed to the host. -/
def Obligations.StepPerformsTheOldestTransaction : Prop :=
  ∀ (s : State) (t : Transaction) (rest : List Transaction), s.pending = t :: rest →
    step s = perform t { s with pending := rest } ∧
    (∀ idx v s', t = .regRead idx → regRead idx { s with pending := rest } = (v, s') →
      step s = .next { s' with returned := s.returned ++ [v] })

/-- R82, R83: when the oldest pending transaction writes a legal command word to `CMD` and no fault is recorded, the step
is the meaning of that command in the state with the transaction issued. The list of pending transactions is the model's
choice (log entry 3). -/
def Obligations.StepRunsTheDecodedCommand : Prop :=
  ∀ (s : State) (w : Word) (i : Instr) (rest : List Transaction),
    s.pending = .regWrite 3 w :: rest → s.status.err = false → decode w = .ok i →
    step s = exec i { s with pending := rest }

/-- The model's choice (log entry 3): a command word placed by `withFetchWord` is what the very next step executes. -/
def Obligations.PlacedCommandRunsNext : Prop :=
  ∀ (s : State) (i : Instr), s.status.err = false →
    step (s.withFetchWord 64 (encode i).toNat) = exec i s

/-- R194, R170: every transaction completes, so every step answers a next state. -/
def Obligations.EveryStepAnswersANextState : Prop :=
  ∀ s : State, ∃ t, step s = .next t

/-- The model's choice (log entry 5): with no transaction pending the step leaves the state as it is. -/
def Obligations.IdleStepChangesNothing : Prop :=
  ∀ s : State, s.pending = [] → step s = .next s

/-- R81 with the map of R41: a read of a permitted index returns the register's value and changes nothing, faulted or
not. -/
def Obligations.RegReadReturnsTheMappedRegister : Prop :=
  ∀ (s : State) (idx : RegIndex) (v : Word),
    (idx, v) ∈ ([(0, configWord s.inst), (1, statusWord s.status), (2, s.finfo),
      (4, s.op.w0), (5, s.op.w1), (6, s.op.w2), (7, s.op.w3),
      (8, s.out.w0), (9, s.out.w1), (10, s.out.w2), (11, s.out.w3), (12, s.x),
      (16, s.ctr.w0), (17, s.ctr.w1), (18, s.ctr.w2), (19, s.ctr.w3),
      (20, s.key.w0), (21, s.key.w1)] : List (RegIndex × Word)) →
    regRead idx s = (v, s)

/-- R173: with no fault recorded, a read of `CMD` or of an unmapped index returns 0 and records `BAD_REG` with
`FINFO = idx`; a write to an index other than 3 and 4 to 7 stores nothing and records `BAD_REG` with
`FINFO = 256 + idx`; nothing else changes. -/
def Obligations.BadIndexRecordsBadReg : Prop :=
  ∀ (s : State) (idx : RegIndex) (v : Word), s.status.err = false →
    (idx.toNat = 3 ∨ (13 ≤ idx.toNat ∧ idx.toNat ≤ 15) ∨ 22 ≤ idx.toNat →
      regRead idx s = (0, { s with
        status := { s.status with err := true, cause := .badReg }, finfo := idx.setWidth 64 })) ∧
    (idx.toNat ≠ 3 ∧ ¬ (4 ≤ idx.toNat ∧ idx.toNat ≤ 7) →
      regWrite idx v s = .next { s with
        status := { s.status with err := true, cause := .badReg }, finfo := 256 + idx.setWidth 64 })

/-- R82, R16: a write to index `4 + i`, with no fault recorded, stores all 64 bits in `OP[i]` and changes nothing
else. -/
def Obligations.OperandWriteStoresAllBits : Prop :=
  ∀ (s : State) (idx : RegIndex) (v : Word),
    s.status.err = false → 4 ≤ idx.toNat → idx.toNat ≤ 7 →
    ∃ t, regWrite idx v s = .next t ∧ t = { s with op := t.op } ∧
      ∀ i : Fin 4, t.op.get i = if idx.toNat = 4 + i.val then v else s.op.get i

/-- R172, R175: with no fault recorded, an illegal word written to `CMD`, whatever the valid flags, records `ILLEGAL_CMD`
with `FINFO = w` and changes nothing else. -/
def Obligations.IllegalWordRecordsIllegalCmd : Prop :=
  ∀ (s : State) (w : Word), s.status.err = false →
    w ∉ ([0x1, 0x3, 0x4, 0x9, 0xA, 0xB, 0xC, 0xD] : List Word) →
    regWrite 3 w s = .next { s with
      status := { s.status with err := true, cause := .illegalCmd }, finfo := w }

/-- R174: with no fault recorded, a legal command whose engine state has not been initialised since reset records
`UNINIT` with `FINFO = w` and has no other effect. -/
def Obligations.UninitialisedUseRecordsUninit : Prop :=
  ∀ (s : State) (w : Word), s.status.err = false →
    (((w = 0x3 ∨ w = 0x4) ∧ s.status.xv = false) ∨ (w = 0xC ∧ s.status.cv = false) ∨
      ((w = 0xD ∨ w = 0xB) ∧ (s.status.cv = false ∨ s.status.kv = false))) →
    regWrite 3 w s = .next { s with
      status := { s.status with err := true, cause := .uninit }, finfo := w }

/-- R177: while `ERR = 1` every write is ignored, a read of a readable register returns its value, every other read
returns 0, and neither changes anything. -/
def Obligations.FaultedStateIgnoresAllButReset : Prop :=
  ∀ (s : State) (idx : RegIndex) (v : Word), s.status.err = true →
    regWrite idx v s = .next s ∧
    (∀ r, readableReg idx = some r → regRead idx s = (readReg r s, s)) ∧
    (idx.toNat = 3 ∨ (13 ≤ idx.toNat ∧ idx.toNat ≤ 15) ∨ 22 ≤ idx.toNat → regRead idx s = (0, s))

/-- R177, R178: over a run of any length without a `Reset`, a faulted block keeps its whole state; only the host's two
lists move (the model's choice, log entries 3 and 4). -/
def Obligations.FaultedStateIsAbsorbing : Prop :=
  ∀ (k : Nat) (s : State), s.status.err = true → Transaction.reset ∉ s.pending →
    ∃ vs, Host.Core.run Sys2Proof.core k s =
      .next { s with pending := s.pending.drop k, returned := s.returned ++ vs }

/-- R25, R190: `Reset` gives every register the value of the table, 0, from any state, the faulted one included;
`CONFIG` keeps its constant. -/
def Obligations.ResetClearsEveryRegister : Prop :=
  ∀ s : State,
    ∃ t, perform .reset s = .next t ∧
      t.x = 0 ∧ (∀ i, t.ctr.get i = 0) ∧ (∀ j, t.key.get j = 0) ∧ (∀ i, t.op.get i = 0) ∧
      (∀ i, t.out.get i = 0) ∧ statusWord t.status = 0 ∧
      t.status.xv = false ∧ t.status.kv = false ∧ t.status.cv = false ∧ t.status.err = false ∧
      t.status.cause = .noFault ∧ t.finfo = 0 ∧ configWord t.inst = configWord s.inst

/-- R25, R190: the state a block instance begins its life in, for every instance, as the host reads it: every register
but `CONFIG` is 0. -/
def Obligations.ResetStateReadsZero : Prop :=
  ∀ inst : Instance,
    (∀ (idx : RegIndex) (r : Reg), readableReg idx = some r → r ≠ .config →
      regRead idx (State.resetOf inst) = (0, State.resetOf inst)) ∧
    regRead 0 (State.resetOf inst) = (configWord inst, State.resetOf inst)

/-- R18: `CONFIG` is `0x0A00 + 16*PHXV + LCGV` with the codes of R4 and R5, and no step changes it. -/
def Obligations.ConfigIsTheInstanceConstant : Prop :=
  (∀ l p : Nat, ∀ inst : Instance,
    (inst.lcg = .lcg31 ∧ l = 0 ∨ inst.lcg = .lcg48 ∧ l = 1) →
    (inst.phx = .p2x32 ∧ p = 0 ∨ inst.phx = .p2x64 ∧ p = 1 ∨ inst.phx = .p4x32 ∧ p = 2 ∨
      inst.phx = .p4x64 ∧ p = 3) →
    (configWord inst).toNat = 0x0A00 + 16 * p + l) ∧
  (∀ s t : State, step s = .next t → configWord t.inst = configWord s.inst)

/-- R19: the layout of `STATUS`: the four flags in bits 0 to 3, `CAUSE` in bits 7:4, bits 63:8 zero. -/
def Obligations.StatusWordHasTheListedLayout : Prop :=
  ∀ t : Status,
    (statusWord t).getLsbD 0 = t.xv ∧ (statusWord t).getLsbD 1 = t.kv ∧
    (statusWord t).getLsbD 2 = t.cv ∧ (statusWord t).getLsbD 3 = t.err ∧
    (statusWord t).toNat / 16 = causeCode t.cause ∧ causeCode t.cause ≤ 3

/-! ### The commands: result, frame and completion -/

/-- R101: `LCG.SEED` sets `X = OP[0] mod m` and `XV = 1`; it cannot fault and changes nothing else. -/
def Obligations.LcgSeedReducesTheSeed : Prop :=
  decode 0x1 = .ok .lcgSeed ∧
  ∀ s : State, s.status.err = false →
    ∃ t, exec .lcgSeed s = .next t ∧
      t.x.toNat = s.op.w0.toNat % s.lcg.m ∧
      t = { s with x := t.x, status := { s.status with xv := true } }

/-- R102: with `XV = 1`, `LCG.NEXT` sets `X` to `(a*X + c) mod m`, emits the new value in `OUT[0]`, and changes nothing
else; with `XV = 0` it records `UNINIT` and changes nothing else. -/
def Obligations.LcgNextStepsAndEmitsTheNewState : Prop :=
  decode 0x3 = .ok .lcgNext ∧
  ∀ s : State, s.status.err = false →
    (s.status.xv = true →
      ∃ t, exec .lcgNext s = .next t ∧
        t.x.toNat = (s.lcg.a * s.x.toNat + s.lcg.c) % s.lcg.m ∧
        t = { s with x := t.x, out := { s.out with w0 := t.x } }) ∧
    (s.status.xv = false →
      exec .lcgNext s =
        .next { s with status := { s.status with err := true, cause := .uninit }, finfo := 0x3 })

/-- R103: with `XV = 1`, `LCG.DISCARD` sets `X` to the `OP[0]`-fold step of `X`, for every 64-bit `OP[0]`, and changes
nothing else; with `XV = 0` it records `UNINIT` and changes nothing else. -/
def Obligations.LcgDiscardIsTheIteratedStep : Prop :=
  decode 0x4 = .ok .lcgDiscard ∧
  ∀ s : State, s.status.err = false →
    (s.status.xv = true → s.x.toNat < s.lcg.m →
      ∃ t, exec .lcgDiscard s = .next t ∧
        t.x.toNat = lcgIter s.lcg s.op.w0.toNat s.x.toNat ∧
        t = { s with x := t.x }) ∧
    (s.status.xv = false →
      exec .lcgDiscard s =
        .next { s with status := { s.status with err := true, cause := .uninit }, finfo := 0x4 })

/-- R136: `PHX.SETKEY` sets `KEY[j] = OP[j] mod 2^W` for the `N/2` key words and `KV = 1`; it cannot fault and changes
nothing else. -/
def Obligations.PhxSetKeyTruncatesTheOperands : Prop :=
  decode 0x9 = .ok .phxSetKey ∧
  ∀ s : State, s.status.err = false →
    ∃ t, exec .phxSetKey s = .next t ∧
      t.key.w0.toNat = s.op.w0.toNat % 2 ^ s.phx.W ∧
      (s.phx.N = 2 → t.key.w1 = s.key.w1) ∧
      (s.phx.N = 4 → t.key.w1.toNat = s.op.w1.toNat % 2 ^ s.phx.W) ∧
      t = { s with key := t.key, status := { s.status with kv := true } }

/-- R137: `PHX.SETCTR` sets `CTR[i] = OP[i] mod 2^W` for the `N` counter words and `CV = 1`; it cannot fault and changes
nothing else. -/
def Obligations.PhxSetCtrTruncatesTheOperands : Prop :=
  decode 0xA = .ok .phxSetCtr ∧
  ∀ s : State, s.status.err = false →
    ∃ t, exec .phxSetCtr s = .next t ∧
      t.ctr.w0.toNat = s.op.w0.toNat % 2 ^ s.phx.W ∧
      t.ctr.w1.toNat = s.op.w1.toNat % 2 ^ s.phx.W ∧
      (s.phx.N = 2 → t.ctr.w2 = s.ctr.w2 ∧ t.ctr.w3 = s.ctr.w3) ∧
      (s.phx.N = 4 → t.ctr.w2.toNat = s.op.w2.toNat % 2 ^ s.phx.W ∧
        t.ctr.w3.toNat = s.op.w3.toNat % 2 ^ s.phx.W) ∧
      t = { s with ctr := t.ctr, status := { s.status with cv := true } }

/-- R138: with `CV = KV = 1`, `PHX.GEN` puts `generate(CTR, KEY)` into `OUT[0..N-1]` in lane order, none of the words
cut, and changes nothing else; with a flag missing it records `UNINIT` and changes nothing else. -/
def Obligations.PhxGenEmitsGenerate : Prop :=
  decode 0xD = .ok .phxGen ∧
  ∀ s : State, s.status.err = false →
    (s.status.cv = true → s.status.kv = true →
      ∃ t, exec .phxGen s = .next t ∧
        t.out.toNats.take s.phx.N = generate s.phx (counterWords s) (keyWords s) ∧
        (s.phx.N = 2 → t.out.w2 = s.out.w2 ∧ t.out.w3 = s.out.w3) ∧
        t = { s with out := t.out }) ∧
    (s.status.cv = false ∨ s.status.kv = false →
      exec .phxGen s =
        .next { s with status := { s.status with err := true, cause := .uninit }, finfo := 0xD })

/-- R139: with `CV = KV = 1`, `PHX.NEXT` emits `generate` of the counter before the increment and then adds 1 to the
counter as one `N*W`-bit number; it changes nothing else; that is exactly the effect of `PHX.GEN` followed by `PHX.JUMP`
with `delta = 1`, except that `OP[0]` is not read. With a flag missing it records `UNINIT`. -/
def Obligations.PhxNextEmitsThenIncrements : Prop :=
  decode 0xB = .ok .phxNext ∧
  ∀ s : State, s.status.err = false →
    (s.status.cv = true → s.status.kv = true →
      ∃ t, exec .phxNext s = .next t ∧
        t.out.toNats.take s.phx.N = generate s.phx (counterWords s) (keyWords s) ∧
        (s.phx.N = 2 → t.out.w2 = s.out.w2 ∧ t.out.w3 = s.out.w3) ∧
        counterValue s.phx (counterWords t) =
          (counterValue s.phx (counterWords s) + 1) % 2 ^ (s.phx.N * s.phx.W) ∧
        (∀ v ∈ counterWords t, v < 2 ^ s.phx.W) ∧
        (s.phx.N = 2 → t.ctr.w2 = s.ctr.w2 ∧ t.ctr.w3 = s.ctr.w3) ∧
        t = { s with out := t.out, ctr := t.ctr } ∧
        ∃ u, execList [.phxGen, .phxJump] (s.setOp 0 1) = .next u ∧ t = { u with op := s.op }) ∧
    (s.status.cv = false ∨ s.status.kv = false →
      exec .phxNext s =
        .next { s with status := { s.status with err := true, cause := .uninit }, finfo := 0xB })

/-- R140: with `CV = 1` (the key need not be valid), `PHX.JUMP` adds `OP[0]` to the counter as one `N*W`-bit number, the
carry out dropped, and changes nothing else. With `CV = 0` it records `UNINIT`. -/
def Obligations.PhxJumpAddsDelta : Prop :=
  decode 0xC = .ok .phxJump ∧
  ∀ s : State, s.status.err = false →
    (s.status.cv = true →
      ∃ t, exec .phxJump s = .next t ∧
        counterValue s.phx (counterWords t) =
          (counterValue s.phx (counterWords s) + s.op.w0.toNat) % 2 ^ (s.phx.N * s.phx.W) ∧
        (∀ v ∈ counterWords t, v < 2 ^ s.phx.W) ∧
        (s.phx.N = 2 → t.ctr.w2 = s.ctr.w2 ∧ t.ctr.w3 = s.ctr.w3) ∧
        t = { s with ctr := t.ctr }) ∧
    (s.status.cv = false →
      exec .phxJump s =
        .next { s with status := { s.status with err := true, cause := .uninit }, finfo := 0xC })

/-- R86: the frame rule over all commands. No command writes `OP`; no LCG command touches `CTR`, `KEY`, `KV`, `CV`; no
Philox command touches `X`, `XV`; `PHX.GEN` changes only `OUT` unless it faults; `LCG.DISCARD` and `PHX.JUMP` change no
`OUT`; a valid flag changes only under its initialising command and only to 1; `ERR`, `CAUSE` and `FINFO` change only by
the `UNINIT` record of a command that was not ready. -/
def Obligations.CommandsKeepTheFrame : Prop :=
  ∀ (i : Instr) (s t : State), exec i s = .next t →
    s.status.err = false →
    t.op = s.op ∧ t.inst = s.inst ∧ t.pending = s.pending ∧ t.returned = s.returned ∧
    (engineOf i = .lcg → t.ctr = s.ctr ∧ t.key = s.key ∧ t.status.kv = s.status.kv ∧
      t.status.cv = s.status.cv) ∧
    (engineOf i = .philox → t.x = s.x ∧ t.status.xv = s.status.xv) ∧
    (i = .phxGen → t.status.err = false → t = { s with out := t.out }) ∧
    (i = .lcgDiscard ∨ i = .phxJump → t.out = s.out) ∧
    (t.status.xv ≠ s.status.xv → i = .lcgSeed ∧ t.status.xv = true) ∧
    (t.status.kv ≠ s.status.kv → i = .phxSetKey ∧ t.status.kv = true) ∧
    (t.status.cv ≠ s.status.cv → i = .phxSetCtr ∧ t.status.cv = true) ∧
    ((t.status.err = s.status.err ∧ t.status.cause = s.status.cause ∧ t.finfo = s.finfo) ∨
      (ready i s.status = false ∧ t.status.err = true ∧ t.status.cause = .uninit ∧ t.finfo = encode i))

/-- R11, R12, R13, R86: the only transactions that change `X`, `CTR`, `KEY` or `OP` in a step. -/
def Obligations.RegistersChangeOnlyByTheirWriters : Prop :=
  ∀ s t : State, step s = .next t →
    (t.x ≠ s.x → ∃ rest, s.pending = .reset :: rest ∨
      ∃ w ∈ ([0x1, 0x3, 0x4] : List Word), s.pending = .regWrite 3 w :: rest) ∧
    (t.ctr ≠ s.ctr → ∃ rest, s.pending = .reset :: rest ∨
      ∃ w ∈ ([0xA, 0xB, 0xC] : List Word), s.pending = .regWrite 3 w :: rest) ∧
    (t.key ≠ s.key → ∃ rest, s.pending = .reset :: rest ∨ s.pending = .regWrite 3 0x9 :: rest) ∧
    (t.op ≠ s.op → ∃ rest, s.pending = .reset :: rest ∨
      ∃ (idx : RegIndex) (v : Word), 4 ≤ idx.toNat ∧ idx.toNat ≤ 7 ∧ s.pending = .regWrite idx v :: rest) ∧
    (t.out ≠ s.out → ∃ rest, s.pending = .reset :: rest ∨
      ∃ w ∈ ([0x3, 0xB, 0xD] : List Word), s.pending = .regWrite 3 w :: rest)

/-- R19, R26: a step that does not perform `Reset` never clears `XV`, `KV`, `CV` or `ERR`, and once `ERR = 1` it never
alters `CAUSE` or `FINFO`. -/
def Obligations.OnlyResetClearsStatus : Prop :=
  ∀ s t : State, step s = .next t → (∀ rest, s.pending ≠ .reset :: rest) →
    (s.status.xv = true → t.status.xv = true) ∧ (s.status.kv = true → t.status.kv = true) ∧
    (s.status.cv = true → t.status.cv = true) ∧
    (s.status.err = true → t.status = s.status ∧ t.finfo = s.finfo)

/-! ### Invariant -/

/-- R14 with R11 to R13, R19, R20, R171 to R174: the state invariant is kept by every step, from every state that meets
it. -/
def Obligations.InvariantKeptByEveryStep : Prop :=
  ∀ s t : State, s.Inv → step s = .next t → t.Inv

/-- R14, R25: the reset state of every instance meets the invariant, the model's `State.reset` (log entry 2) among
them. -/
def Obligations.ResetStateMeetsTheInvariant : Prop :=
  (∀ inst : Instance, (State.resetOf inst).Inv) ∧ State.reset.Inv

/-! ### The LCG engine -/

/-- R104: the `n`-step map is affine, with the coefficients `A_n`, `C_n`, for every record of the generic range; `C_n`
agrees with the source's two branches wherever those are defined (`a - 1` and `a^n - 1` modulo `m`). -/
def Obligations.NStepMapIsAffine : Prop :=
  ∀ (p : LcgParams) (n : Nat), p.wf = true →
    (∀ x, x < p.m → lcgIter p n x = (affineA p n * x + affineC p n) % p.m ∧ lcgIter p n x < p.m) ∧
    (p.a % p.m = 1 → affineC p n = p.c * n % p.m) ∧
    (∀ u, u * (p.a + p.m - 1) % p.m = 1 → affineC p n = p.c * (p.a ^ n + p.m - 1) * u % p.m)

/-- R105: binary decomposition computes the coefficients of the `n`-step map, for every record and every `n`, in at most
64 iterations for `n < 2^64`; and the loop invariant: at the start of iteration `i`, `(h, f)` is the `2^i`-step map and
`(A, C)` the map for the low `i` bits of `n`. -/
def Obligations.JumpCoeffsAreTheAffineCoefficients : Prop :=
  ∀ (p : LcgParams) (n : Nat),
    jumpCoeffs p n = (affineA p n, affineC p n) ∧
    (n < 2 ^ 64 → jumpLoop p 64 n (1 % p.m) 0 (p.a % p.m) (p.c % p.m) = (affineA p n, affineC p n)) ∧
    (∀ i rest : Nat, 2 ^ i ≤ 2 * n →
      jumpLoop p (i + rest) n (1 % p.m) 0 (p.a % p.m) (p.c % p.m) =
        jumpLoop p rest (n / 2 ^ i) (affineA p (n % 2 ^ i)) (affineC p (n % 2 ^ i))
          (affineA p (2 ^ i)) (affineC p (2 ^ i)))

/-- R194: for `n < 2^64` the loop of `jump_coeffs` has ended after 64 iterations: any further ones change nothing. -/
def Obligations.JumpLoopEndsWithin64Iterations : Prop :=
  ∀ (p : LcgParams) (n extra A C h f : Nat), n < 2 ^ 64 →
    jumpLoop p (64 + extra) n A C h f = jumpLoop p 64 n A C h f

/-- R106: square-and-multiply computes `b^n mod m`, and the `A` component of `jump_coeffs` is that power. -/
def Obligations.ModpowIsThePower : Prop :=
  (∀ b n m : Nat, 1 ≤ m → modpow b n m = b ^ n % m) ∧
  (∀ (p : LcgParams) (n : Nat), p.wf = true → (jumpCoeffs p n).1 = modpow p.a n p.m)

/-- R107: `modinv(v, m)` exists exactly when `gcd(v, m) = 1`, and is then the unique inverse in `[0, m)`. -/
def Obligations.ModinvIsTheUniqueInverse : Prop :=
  ∀ v m : Nat, 1 ≤ m →
    ((∃ u, modinv v m = some u) ↔ Nat.gcd v m = 1) ∧
    (∀ u, modinv v m = some u ↔ (Nat.gcd v m = 1 ∧ u < m ∧ u * v % m = 1 % m))

/-- R107: where the closed form applies it gives `C_n`; it applies to `LCG31` and not to `LCG48`. -/
def Obligations.ClosedFormAgreesWhereItApplies : Prop :=
  (∀ (p : LcgParams) (n C : Nat), p.wf = true → closedC p n = some C → C = affineC p n) ∧
  (∀ n, (closedC (lcgParams .lcg31) n).isSome) ∧
  (∀ n, closedC (lcgParams .lcg48) n = none)

/-- R109: from any state with `XV = 1`, `discard(n)` followed by `k` times `next()` ends in the same `X`, with the same
`OUT[0]` after the last draw (for `k` at least 1), as `n + k` times `next()`; this for every `k`, so draw by draw. -/
def Obligations.DiscardThenNextIsSequentialStepping : Prop :=
  ∀ (s : State) (k : Nat),
    s.status.err = false → s.status.xv = true → s.x.toNat < s.lcg.m →
    ∃ t u,
      execList (.lcgDiscard :: List.replicate k .lcgNext) s = .next t ∧
      execList (List.replicate (s.op.w0.toNat + k) .lcgNext) s = .next u ∧
      t.x = u.x ∧ (1 ≤ k → t.out.w0 = u.out.w0)

/-- R110: two discards compose to the discard of the exact sum where that fits 64 bits, and to the `(a+b)`-step map
always; the wrapped operand is right on `LCG48` and not on `LCG31`. -/
def Obligations.DiscardsCompose : Prop :=
  (∀ (s : State) (a b : Word),
    s.status.err = false → s.status.xv = true → s.x.toNat < s.lcg.m →
    ∃ t1 t2 t3,
      exec .lcgDiscard (s.setOp 0 a) = .next t1 ∧
      exec .lcgDiscard (t1.setOp 0 b) = .next t2 ∧
      exec .lcgDiscard (s.setOp 0 (a + b)) = .next t3 ∧
      t2.x.toNat = lcgIter s.lcg (a.toNat + b.toNat) s.x.toNat ∧
      (a.toNat + b.toNat < 2 ^ 64 → t3.x = t2.x) ∧
      (s.inst.lcg = .lcg48 → t3.x = t2.x)) ∧
  lcgIter (lcgParams .lcg31) (2 ^ 64) 1 = 1098894339

/-- R111, R24: what an LCG command leaves in `X` and emits is a function of the record, `X` and `OP[0]` alone. -/
def Obligations.LcgOutputsDependOnLcgStateOnly : Prop :=
  ∀ (i : Instr) (s s' t t' : State), engineOf i = .lcg →
    s.inst.lcg = s'.inst.lcg → s.x = s'.x → s.op.w0 = s'.op.w0 → s.status.xv = s'.status.xv →
    exec i s = .next t → exec i s' = .next t' →
    t.x = t'.x ∧ t.status.xv = t'.status.xv ∧
      (i = .lcgNext → s.status.xv = true → drawWords .lcg t = drawWords .lcg t')

/-! ### The Philox engine -/

/-- R130: `hi` and `lo` are the halves of the exact product, each of `W` bits, and the corner `u = 2^W - 1`. -/
def Obligations.MulhiloSplitsTheExactProduct : Prop :=
  ∀ W u v : Nat, u < 2 ^ W → v < 2 ^ W →
    u * v = (mulhilo W u v).1 * 2 ^ W + (mulhilo W u v).2 ∧
    (mulhilo W u v).1 < 2 ^ W ∧ (mulhilo W u v).2 < 2 ^ W ∧
    mulhilo W 0 v = (0, 0) ∧
    (1 ≤ v → mulhilo W (2 ^ W - 1) v = (v - 1, 2 ^ W - v))

/-- R132: the equivalent description: swap lanes 0 and 2 of `c`, then the S-box of R131 on pairs (0,1) and (2,3) with
multipliers `M[1]`, `M[0]` and keys `k[0]`, `k[1]`. -/
def Obligations.FourWordRoundIsSwapThenSboxes : Prop :=
  ∀ (p : PhiloxParams) (c0 c1 c2 c3 k0 k1 : Nat),
    let sbox (mult even odd key : Nat) : List Nat :=
      round2 { p with M := [mult] } [even, odd] [key]
    round4 p [c0, c1, c2, c3] [k0, k1] = sbox (lane p.M 1) c2 c1 k0 ++ sbox (lane p.M 0) c0 c3 k1

/-- R133, R134: `generate` is `R` rounds, round `r` with the key `(k[j] + r*Wc[j]) mod 2^W`, for every record and every
`R`, on a key whose words are below `2^W`. -/
def Obligations.GenerateUsesTheWeylRoundKeys : Prop :=
  ∀ (p : PhiloxParams) (ctr key : List Nat),
    key.length = p.N / 2 → (∀ v ∈ key, v < 2 ^ p.W) →
    generate p ctr key =
      (List.range p.R).foldl (fun c r => philoxRound p c (roundKey p key r)) ctr

/-- 93_implementation_defined.md U8: for every record with odd multipliers, `generate` under a fixed key loses no counter:
different counters give different outputs; the hardware's multipliers are odd. -/
def Obligations.GenerateIsInjectiveInTheCounter : Prop :=
  (∀ (p : PhiloxParams) (c c' k : List Nat), p.wf = true → (∀ m ∈ p.M, m % 2 = 1) →
    c.length = p.N → c'.length = p.N → k.length = p.N / 2 →
    (∀ v ∈ c, v < 2 ^ p.W) → (∀ v ∈ c', v < 2 ^ p.W) → (∀ v ∈ k, v < 2 ^ p.W) →
    generate p c k = generate p c' k → c = c') ∧
  (∀ v : PhiloxVariant, (philoxParams v).wf = true ∧ ∀ m ∈ (philoxParams v).M, m % 2 = 1)

/-- R135: `ctr_add` is addition modulo `2^(N*W)` on the counter as one little-endian number, the result in `N` words of
`W` bits. -/
def Obligations.CtrAddIsAdditionOfNumbers : Prop :=
  ∀ (p : PhiloxParams) (ctr : List Nat) (delta : Nat),
    counterValue p (ctrAdd p ctr delta) = (counterValue p ctr + delta) % 2 ^ (p.N * p.W) ∧
    (ctrAdd p ctr delta).length = p.N ∧ ∀ v ∈ ctrAdd p ctr delta, v < 2 ^ p.W

/-- R143: the ripple-carry form equals the number form for every counter and every `delta`. -/
def Obligations.RippleCarryEqualsNumberAddition : Prop :=
  ∀ (p : PhiloxParams) (ctr : List Nat) (delta : Nat), ctrAddWords p ctr delta = ctrAdd p ctr delta

/-- R142, R135: `ctr_add` is additive for every `x` and `y`; adding 0 or `2^(N*W)` to a counter of `N` words of `W`
bits leaves it. -/
def Obligations.CtrAddIsAdditive : Prop :=
  ∀ (p : PhiloxParams) (ctr : List Nat) (x y : Nat),
    ctrAdd p (ctrAdd p ctr x) y = ctrAdd p ctr (x + y) ∧
    (ctr.length = p.N → (∀ v ∈ ctr, v < 2 ^ p.W) →
      ctrAdd p ctr 0 = ctr ∧ ctrAdd p ctr (2 ^ (p.N * p.W)) = ctr)

/-- R142: a jump by `x` then a jump by `y` leaves the `CTR` of one jump by `x + y` when that fits 64 bits, and in every
case that of adding `(x + y) mod 2^(N*W)`. -/
def Obligations.PhiloxJumpsCompose : Prop :=
  ∀ (s : State) (x y : Word), s.status.err = false → s.status.cv = true →
    ∃ t1 t2 t3,
      exec .phxJump (s.setOp 0 x) = .next t1 ∧
      exec .phxJump (t1.setOp 0 y) = .next t2 ∧
      exec .phxJump (s.setOp 0 (x + y)) = .next t3 ∧
      counterWords t2 =
        ctrAdd s.phx (counterWords s) ((x.toNat + y.toNat) % 2 ^ (s.phx.N * s.phx.W)) ∧
      (x.toNat + y.toNat < 2 ^ 64 → t3.ctr = t2.ctr)

/-- R141: the `j`-th of consecutive draws (from 0) emits `generate(ctr_add(c0, j), k)` and leaves
`ctr_add(c0, j + 1)`, and a jump by `delta` then `PHX.GEN` or `PHX.NEXT` emits what draw number `delta` emits. -/
def Obligations.JumpThenGenerateIsSequentialDrawing : Prop :=
  ∀ s : State, s.status.err = false → s.status.cv = true → s.status.kv = true →
    (∀ i, (s.ctr.get i).toNat < 2 ^ s.phx.W) →
    (∀ j : Nat, ∃ t, execList (List.replicate (j + 1) .phxNext) s = .next t ∧
      t.out.toNats.take s.phx.N = generate s.phx (ctrAdd s.phx (counterWords s) j) (keyWords s) ∧
      counterWords t = ctrAdd s.phx (counterWords s) (j + 1)) ∧
    (∃ t u v, execList (List.replicate (s.op.w0.toNat + 1) .phxNext) s = .next t ∧
      execList [.phxJump, .phxGen] s = .next u ∧
      execList [.phxJump, .phxNext] s = .next v ∧
      drawWords .philox u = drawWords .philox t ∧ drawWords .philox v = drawWords .philox t)

/-- R145, R24: what `PHX.GEN` and `PHX.NEXT` emit, and the counter `PHX.NEXT` leaves, are functions of the record, `CTR`
and `KEY` alone. -/
def Obligations.PhiloxOutputsDependOnCounterAndKeyOnly : Prop :=
  ∀ (i : Instr) (s s' t t' : State), i = .phxGen ∨ i = .phxNext →
    s.inst.phx = s'.inst.phx → counterWords s = counterWords s' → keyWords s = keyWords s' →
    s.status.cv = true → s.status.kv = true → s'.status.cv = true → s'.status.kv = true →
    exec i s = .next t → exec i s' = .next t' →
    drawWords .philox t = drawWords .philox t' ∧ counterWords t = counterWords t'

/-! ### Both engines -/

/-- R15: engine state copied by reading it from one block and initialising another block of the same variant with it
arrives unchanged. -/
def Obligations.CopiedStateArrivesUnchanged : Prop :=
  ∀ s d : State, s.Inv → d.inst = s.inst → d.status.err = false →
    (∃ t, exec .lcgSeed (d.setOp 0 s.x) = .next t ∧ t.x = s.x) ∧
    (∃ t, exec .phxSetCtr { d with op := s.ctr } = .next t ∧ counterWords t = counterWords s) ∧
    (∃ t, exec .phxSetKey { d with op := { d.op with w0 := s.key.w0, w1 := s.key.w1 } } = .next t ∧
      keyWords t = keyWords s)

/-- R182: the leapfrog patterns: for the LCG a draw and a discard of `T - 1` advance by exactly `T` steps; for Philox
`PHX.NEXT` then a jump by `T - 1` leaves what `PHX.GEN` then a jump by `T` leaves. -/
def Obligations.LeapfrogPatternsAdvanceByT : Prop :=
  ∀ (s : State) (T : Word), s.status.err = false → 1 ≤ T.toNat →
    (s.status.xv = true → s.x.toNat < s.lcg.m →
      ∃ t, execList [.lcgNext, .lcgDiscard] (s.setOp 0 (T - 1)) = .next t ∧
        t.x.toNat = lcgIter s.lcg T.toNat s.x.toNat ∧
        t.out.w0.toNat = lcgIter s.lcg 1 s.x.toNat) ∧
    (s.status.cv = true → s.status.kv = true →
      ∃ t u, execList [.phxNext, .phxJump] (s.setOp 0 (T - 1)) = .next t ∧
        execList [.phxGen, .phxJump] (s.setOp 0 T) = .next u ∧
        t.ctr = u.ctr ∧ t.out = u.out)

/-- R85 with R102, R144 and R141: the output stream of `k` consecutive draws: for the LCG the first `k` states after the
present one, for Philox the `N` words of `generate` in lane order for each of `k` consecutive counters. -/
def Obligations.OutputStreamsOfConsecutiveDraws : Prop :=
  ∀ (s : State) (k : Nat), s.status.err = false →
    (s.status.xv = true → s.x.toNat < s.lcg.m →
      (outputStream .lcg (List.replicate k (commandWrite (encode .lcgNext))) s).map BitVec.toNat =
        (List.range k).map fun j => lcgIter s.lcg (j + 1) s.x.toNat) ∧
    (s.status.cv = true → s.status.kv = true → (∀ i, (s.ctr.get i).toNat < 2 ^ s.phx.W) →
      (outputStream .philox (List.replicate k (commandWrite (encode .phxNext))) s).map BitVec.toNat =
        (List.range k).flatMap fun j =>
          generate s.phx (ctrAdd s.phx (counterWords s) j) (keyWords s))
end

