-- ==== Sys2Proof/Laws/State.lean ====
section
/-! SUPPORT. One lemma per field per state update, each true by `rfl`, so that no later proof unfolds a record update.
`lcg` and `phx` are the parameter records the instance fixes. -/

namespace Sys2Proof.Machine

@[simp] theorem State.setX_x (s : State) (v : Nat) : (s.setX v).x = BitVec.ofNat 64 v := rfl
@[simp] theorem State.setX_ctr (s : State) (v : Nat) : (s.setX v).ctr = s.ctr := rfl
@[simp] theorem State.setX_key (s : State) (v : Nat) : (s.setX v).key = s.key := rfl
@[simp] theorem State.setX_op (s : State) (v : Nat) : (s.setX v).op = s.op := rfl
@[simp] theorem State.setX_out (s : State) (v : Nat) : (s.setX v).out = s.out := rfl
@[simp] theorem State.setX_status (s : State) (v : Nat) : (s.setX v).status = s.status := rfl
@[simp] theorem State.setX_finfo (s : State) (v : Nat) : (s.setX v).finfo = s.finfo := rfl
@[simp] theorem State.setX_inst (s : State) (v : Nat) : (s.setX v).inst = s.inst := rfl
@[simp] theorem State.setX_pending (s : State) (v : Nat) : (s.setX v).pending = s.pending := rfl
@[simp] theorem State.setX_returned (s : State) (v : Nat) : (s.setX v).returned = s.returned := rfl
@[simp] theorem State.setX_lcg (s : State) (v : Nat) : (s.setX v).lcg = s.lcg := rfl
@[simp] theorem State.setX_phx (s : State) (v : Nat) : (s.setX v).phx = s.phx := rfl

@[simp] theorem State.setCtr_x (s : State) (vs : List Nat) : (s.setCtr vs).x = s.x := rfl
@[simp] theorem State.setCtr_ctr (s : State) (vs : List Nat) : (s.setCtr vs).ctr = s.ctr.store vs := rfl
@[simp] theorem State.setCtr_key (s : State) (vs : List Nat) : (s.setCtr vs).key = s.key := rfl
@[simp] theorem State.setCtr_op (s : State) (vs : List Nat) : (s.setCtr vs).op = s.op := rfl
@[simp] theorem State.setCtr_out (s : State) (vs : List Nat) : (s.setCtr vs).out = s.out := rfl
@[simp] theorem State.setCtr_status (s : State) (vs : List Nat) : (s.setCtr vs).status = s.status := rfl
@[simp] theorem State.setCtr_finfo (s : State) (vs : List Nat) : (s.setCtr vs).finfo = s.finfo := rfl
@[simp] theorem State.setCtr_inst (s : State) (vs : List Nat) : (s.setCtr vs).inst = s.inst := rfl
@[simp] theorem State.setCtr_pending (s : State) (vs : List Nat) : (s.setCtr vs).pending = s.pending := rfl
@[simp] theorem State.setCtr_returned (s : State) (vs : List Nat) : (s.setCtr vs).returned = s.returned := rfl
@[simp] theorem State.setCtr_lcg (s : State) (vs : List Nat) : (s.setCtr vs).lcg = s.lcg := rfl
@[simp] theorem State.setCtr_phx (s : State) (vs : List Nat) : (s.setCtr vs).phx = s.phx := rfl

@[simp] theorem State.setKey_x (s : State) (vs : List Nat) : (s.setKey vs).x = s.x := rfl
@[simp] theorem State.setKey_ctr (s : State) (vs : List Nat) : (s.setKey vs).ctr = s.ctr := rfl
@[simp] theorem State.setKey_key (s : State) (vs : List Nat) : (s.setKey vs).key = s.key.store vs := rfl
@[simp] theorem State.setKey_op (s : State) (vs : List Nat) : (s.setKey vs).op = s.op := rfl
@[simp] theorem State.setKey_out (s : State) (vs : List Nat) : (s.setKey vs).out = s.out := rfl
@[simp] theorem State.setKey_status (s : State) (vs : List Nat) : (s.setKey vs).status = s.status := rfl
@[simp] theorem State.setKey_finfo (s : State) (vs : List Nat) : (s.setKey vs).finfo = s.finfo := rfl
@[simp] theorem State.setKey_inst (s : State) (vs : List Nat) : (s.setKey vs).inst = s.inst := rfl
@[simp] theorem State.setKey_pending (s : State) (vs : List Nat) : (s.setKey vs).pending = s.pending := rfl
@[simp] theorem State.setKey_returned (s : State) (vs : List Nat) : (s.setKey vs).returned = s.returned := rfl
@[simp] theorem State.setKey_lcg (s : State) (vs : List Nat) : (s.setKey vs).lcg = s.lcg := rfl
@[simp] theorem State.setKey_phx (s : State) (vs : List Nat) : (s.setKey vs).phx = s.phx := rfl

@[simp] theorem State.setOut_x (s : State) (vs : List Nat) : (s.setOut vs).x = s.x := rfl
@[simp] theorem State.setOut_ctr (s : State) (vs : List Nat) : (s.setOut vs).ctr = s.ctr := rfl
@[simp] theorem State.setOut_key (s : State) (vs : List Nat) : (s.setOut vs).key = s.key := rfl
@[simp] theorem State.setOut_op (s : State) (vs : List Nat) : (s.setOut vs).op = s.op := rfl
@[simp] theorem State.setOut_out (s : State) (vs : List Nat) : (s.setOut vs).out = s.out.store vs := rfl
@[simp] theorem State.setOut_status (s : State) (vs : List Nat) : (s.setOut vs).status = s.status := rfl
@[simp] theorem State.setOut_finfo (s : State) (vs : List Nat) : (s.setOut vs).finfo = s.finfo := rfl
@[simp] theorem State.setOut_inst (s : State) (vs : List Nat) : (s.setOut vs).inst = s.inst := rfl
@[simp] theorem State.setOut_pending (s : State) (vs : List Nat) : (s.setOut vs).pending = s.pending := rfl
@[simp] theorem State.setOut_returned (s : State) (vs : List Nat) : (s.setOut vs).returned = s.returned := rfl
@[simp] theorem State.setOut_lcg (s : State) (vs : List Nat) : (s.setOut vs).lcg = s.lcg := rfl
@[simp] theorem State.setOut_phx (s : State) (vs : List Nat) : (s.setOut vs).phx = s.phx := rfl

@[simp] theorem State.setOp_x (s : State) (i : Fin 4) (v : Word) : (s.setOp i v).x = s.x := rfl
@[simp] theorem State.setOp_ctr (s : State) (i : Fin 4) (v : Word) : (s.setOp i v).ctr = s.ctr := rfl
@[simp] theorem State.setOp_key (s : State) (i : Fin 4) (v : Word) : (s.setOp i v).key = s.key := rfl
@[simp] theorem State.setOp_op (s : State) (i : Fin 4) (v : Word) : (s.setOp i v).op = s.op.set i v := rfl
@[simp] theorem State.setOp_out (s : State) (i : Fin 4) (v : Word) : (s.setOp i v).out = s.out := rfl
@[simp] theorem State.setOp_status (s : State) (i : Fin 4) (v : Word) : (s.setOp i v).status = s.status := rfl
@[simp] theorem State.setOp_finfo (s : State) (i : Fin 4) (v : Word) : (s.setOp i v).finfo = s.finfo := rfl
@[simp] theorem State.setOp_inst (s : State) (i : Fin 4) (v : Word) : (s.setOp i v).inst = s.inst := rfl
@[simp] theorem State.setOp_pending (s : State) (i : Fin 4) (v : Word) : (s.setOp i v).pending = s.pending := rfl
@[simp] theorem State.setOp_returned (s : State) (i : Fin 4) (v : Word) : (s.setOp i v).returned = s.returned := rfl
@[simp] theorem State.setOp_lcg (s : State) (i : Fin 4) (v : Word) : (s.setOp i v).lcg = s.lcg := rfl
@[simp] theorem State.setOp_phx (s : State) (i : Fin 4) (v : Word) : (s.setOp i v).phx = s.phx := rfl

@[simp] theorem State.markX_x (s : State) : (s.markX).x = s.x := rfl
@[simp] theorem State.markX_ctr (s : State) : (s.markX).ctr = s.ctr := rfl
@[simp] theorem State.markX_key (s : State) : (s.markX).key = s.key := rfl
@[simp] theorem State.markX_op (s : State) : (s.markX).op = s.op := rfl
@[simp] theorem State.markX_out (s : State) : (s.markX).out = s.out := rfl
@[simp] theorem State.markX_status (s : State) : (s.markX).status = { s.status with xv := true } := rfl
@[simp] theorem State.markX_finfo (s : State) : (s.markX).finfo = s.finfo := rfl
@[simp] theorem State.markX_inst (s : State) : (s.markX).inst = s.inst := rfl
@[simp] theorem State.markX_pending (s : State) : (s.markX).pending = s.pending := rfl
@[simp] theorem State.markX_returned (s : State) : (s.markX).returned = s.returned := rfl
@[simp] theorem State.markX_lcg (s : State) : (s.markX).lcg = s.lcg := rfl
@[simp] theorem State.markX_phx (s : State) : (s.markX).phx = s.phx := rfl

@[simp] theorem State.markKey_x (s : State) : (s.markKey).x = s.x := rfl
@[simp] theorem State.markKey_ctr (s : State) : (s.markKey).ctr = s.ctr := rfl
@[simp] theorem State.markKey_key (s : State) : (s.markKey).key = s.key := rfl
@[simp] theorem State.markKey_op (s : State) : (s.markKey).op = s.op := rfl
@[simp] theorem State.markKey_out (s : State) : (s.markKey).out = s.out := rfl
@[simp] theorem State.markKey_status (s : State) : (s.markKey).status = { s.status with kv := true } := rfl
@[simp] theorem State.markKey_finfo (s : State) : (s.markKey).finfo = s.finfo := rfl
@[simp] theorem State.markKey_inst (s : State) : (s.markKey).inst = s.inst := rfl
@[simp] theorem State.markKey_pending (s : State) : (s.markKey).pending = s.pending := rfl
@[simp] theorem State.markKey_returned (s : State) : (s.markKey).returned = s.returned := rfl
@[simp] theorem State.markKey_lcg (s : State) : (s.markKey).lcg = s.lcg := rfl
@[simp] theorem State.markKey_phx (s : State) : (s.markKey).phx = s.phx := rfl

@[simp] theorem State.markCtr_x (s : State) : (s.markCtr).x = s.x := rfl
@[simp] theorem State.markCtr_ctr (s : State) : (s.markCtr).ctr = s.ctr := rfl
@[simp] theorem State.markCtr_key (s : State) : (s.markCtr).key = s.key := rfl
@[simp] theorem State.markCtr_op (s : State) : (s.markCtr).op = s.op := rfl
@[simp] theorem State.markCtr_out (s : State) : (s.markCtr).out = s.out := rfl
@[simp] theorem State.markCtr_status (s : State) : (s.markCtr).status = { s.status with cv := true } := rfl
@[simp] theorem State.markCtr_finfo (s : State) : (s.markCtr).finfo = s.finfo := rfl
@[simp] theorem State.markCtr_inst (s : State) : (s.markCtr).inst = s.inst := rfl
@[simp] theorem State.markCtr_pending (s : State) : (s.markCtr).pending = s.pending := rfl
@[simp] theorem State.markCtr_returned (s : State) : (s.markCtr).returned = s.returned := rfl
@[simp] theorem State.markCtr_lcg (s : State) : (s.markCtr).lcg = s.lcg := rfl
@[simp] theorem State.markCtr_phx (s : State) : (s.markCtr).phx = s.phx := rfl

@[simp] theorem State.answer_x (s : State) (v : Word) : (s.answer v).x = s.x := rfl
@[simp] theorem State.answer_ctr (s : State) (v : Word) : (s.answer v).ctr = s.ctr := rfl
@[simp] theorem State.answer_key (s : State) (v : Word) : (s.answer v).key = s.key := rfl
@[simp] theorem State.answer_op (s : State) (v : Word) : (s.answer v).op = s.op := rfl
@[simp] theorem State.answer_out (s : State) (v : Word) : (s.answer v).out = s.out := rfl
@[simp] theorem State.answer_status (s : State) (v : Word) : (s.answer v).status = s.status := rfl
@[simp] theorem State.answer_finfo (s : State) (v : Word) : (s.answer v).finfo = s.finfo := rfl
@[simp] theorem State.answer_inst (s : State) (v : Word) : (s.answer v).inst = s.inst := rfl
@[simp] theorem State.answer_pending (s : State) (v : Word) : (s.answer v).pending = s.pending := rfl
@[simp] theorem State.answer_returned (s : State) (v : Word) : (s.answer v).returned = s.returned ++ [v] := rfl
@[simp] theorem State.answer_lcg (s : State) (v : Word) : (s.answer v).lcg = s.lcg := rfl
@[simp] theorem State.answer_phx (s : State) (v : Word) : (s.answer v).phx = s.phx := rfl

@[simp] theorem State.setPending_x (s : State) (rest : List Transaction) : (s.setPending rest).x = s.x := rfl
@[simp] theorem State.setPending_ctr (s : State) (rest : List Transaction) : (s.setPending rest).ctr = s.ctr := rfl
@[simp] theorem State.setPending_key (s : State) (rest : List Transaction) : (s.setPending rest).key = s.key := rfl
@[simp] theorem State.setPending_op (s : State) (rest : List Transaction) : (s.setPending rest).op = s.op := rfl
@[simp] theorem State.setPending_out (s : State) (rest : List Transaction) : (s.setPending rest).out = s.out := rfl
@[simp] theorem State.setPending_status (s : State) (rest : List Transaction) : (s.setPending rest).status = s.status := rfl
@[simp] theorem State.setPending_finfo (s : State) (rest : List Transaction) : (s.setPending rest).finfo = s.finfo := rfl
@[simp] theorem State.setPending_inst (s : State) (rest : List Transaction) : (s.setPending rest).inst = s.inst := rfl
@[simp] theorem State.setPending_pending (s : State) (rest : List Transaction) : (s.setPending rest).pending = rest := rfl
@[simp] theorem State.setPending_returned (s : State) (rest : List Transaction) : (s.setPending rest).returned = s.returned := rfl
@[simp] theorem State.setPending_lcg (s : State) (rest : List Transaction) : (s.setPending rest).lcg = s.lcg := rfl
@[simp] theorem State.setPending_phx (s : State) (rest : List Transaction) : (s.setPending rest).phx = s.phx := rfl

@[simp] theorem raise_x (cause : Cause) (info : Word) (s : State) : (raise cause info s).x = s.x := rfl
@[simp] theorem raise_ctr (cause : Cause) (info : Word) (s : State) : (raise cause info s).ctr = s.ctr := rfl
@[simp] theorem raise_key (cause : Cause) (info : Word) (s : State) : (raise cause info s).key = s.key := rfl
@[simp] theorem raise_op (cause : Cause) (info : Word) (s : State) : (raise cause info s).op = s.op := rfl
@[simp] theorem raise_out (cause : Cause) (info : Word) (s : State) : (raise cause info s).out = s.out := rfl
@[simp] theorem raise_status (cause : Cause) (info : Word) (s : State) : (raise cause info s).status = { s.status with err := true, cause := cause } := rfl
@[simp] theorem raise_finfo (cause : Cause) (info : Word) (s : State) : (raise cause info s).finfo = info := rfl
@[simp] theorem raise_inst (cause : Cause) (info : Word) (s : State) : (raise cause info s).inst = s.inst := rfl
@[simp] theorem raise_pending (cause : Cause) (info : Word) (s : State) : (raise cause info s).pending = s.pending := rfl
@[simp] theorem raise_returned (cause : Cause) (info : Word) (s : State) : (raise cause info s).returned = s.returned := rfl
@[simp] theorem raise_lcg (cause : Cause) (info : Word) (s : State) : (raise cause info s).lcg = s.lcg := rfl
@[simp] theorem raise_phx (cause : Cause) (info : Word) (s : State) : (raise cause info s).phx = s.phx := rfl

@[simp] theorem resetBlock_x (s : State) : (resetBlock s).x = 0 := rfl
@[simp] theorem resetBlock_ctr (s : State) : (resetBlock s).ctr = .zero := rfl
@[simp] theorem resetBlock_key (s : State) : (resetBlock s).key = .zero := rfl
@[simp] theorem resetBlock_op (s : State) : (resetBlock s).op = .zero := rfl
@[simp] theorem resetBlock_out (s : State) : (resetBlock s).out = .zero := rfl
@[simp] theorem resetBlock_status (s : State) : (resetBlock s).status = .zero := rfl
@[simp] theorem resetBlock_finfo (s : State) : (resetBlock s).finfo = 0 := rfl
@[simp] theorem resetBlock_inst (s : State) : (resetBlock s).inst = s.inst := rfl
@[simp] theorem resetBlock_pending (s : State) : (resetBlock s).pending = s.pending := rfl
@[simp] theorem resetBlock_returned (s : State) : (resetBlock s).returned = s.returned := rfl
@[simp] theorem resetBlock_lcg (s : State) : (resetBlock s).lcg = s.lcg := rfl
@[simp] theorem resetBlock_phx (s : State) : (resetBlock s).phx = s.phx := rfl

@[simp] theorem State.resetOf_x (inst : Instance) : (State.resetOf inst).x = 0 := rfl
@[simp] theorem State.resetOf_ctr (inst : Instance) : (State.resetOf inst).ctr = .zero := rfl
@[simp] theorem State.resetOf_key (inst : Instance) : (State.resetOf inst).key = .zero := rfl
@[simp] theorem State.resetOf_op (inst : Instance) : (State.resetOf inst).op = .zero := rfl
@[simp] theorem State.resetOf_out (inst : Instance) : (State.resetOf inst).out = .zero := rfl
@[simp] theorem State.resetOf_status (inst : Instance) : (State.resetOf inst).status = .zero := rfl
@[simp] theorem State.resetOf_finfo (inst : Instance) : (State.resetOf inst).finfo = 0 := rfl
@[simp] theorem State.resetOf_inst (inst : Instance) : (State.resetOf inst).inst = inst := rfl
@[simp] theorem State.resetOf_pending (inst : Instance) : (State.resetOf inst).pending = [] := rfl
@[simp] theorem State.resetOf_returned (inst : Instance) : (State.resetOf inst).returned = [] := rfl
@[simp] theorem State.resetOf_lcg (inst : Instance) : (State.resetOf inst).lcg = lcgParams inst.lcg := rfl
@[simp] theorem State.resetOf_phx (inst : Instance) : (State.resetOf inst).phx = philoxParams inst.phx := rfl

end Sys2Proof.Machine
end

