-- ==== Sys2Proof/Laws/Ops.lean ====
section
/-! SUPPORT. What each shared operation can do, once: the readiness check, delivering words to registers, the register
map, the port operations and the step. -/

namespace Sys2Proof.Machine

/-! ### Parameters -/

theorem lcgParams_wf (v : LcgVariant) : (lcgParams v).wf = true := by cases v <;> decide

theorem philoxParams_wf (v : PhiloxVariant) : (philoxParams v).wf = true := by cases v <;> decide

theorem lcg_m_bounds (s : State) : 2 ≤ s.lcg.m ∧ s.lcg.m ≤ 2 ^ 64 := by
  have h := lcgParams_wf s.inst.lcg
  simpa [LcgParams.wf, State.lcg] using h

theorem phx_N_cases (s : State) : s.phx.N = 2 ∨ s.phx.N = 4 := by
  have h := philoxParams_wf s.inst.phx
  simp [PhiloxParams.wf] at h
  exact h.1.1.1.1.2

theorem phx_W_cases (s : State) : s.phx.W = 32 ∨ s.phx.W = 64 := by
  have h := philoxParams_wf s.inst.phx
  simp [PhiloxParams.wf] at h
  exact h.1.1.1.1.1

/-! ### Reading and delivering words -/

@[simp] theorem Quad.get_zero (i : Fin 4) : Quad.zero.get i = 0 := by
  match i with
  | 0 => rfl
  | 1 => rfl
  | 2 => rfl
  | 3 => rfl

@[simp] theorem Pair.get_zero (j : Fin 2) : Pair.zero.get j = 0 := by
  match j with
  | 0 => rfl
  | 1 => rfl

theorem Quad.get_set (q : Quad) (i j : Fin 4) (v : Word) :
    (q.set i v).get j = if j = i then v else q.get j := by
  match i, j with
  | 0, 0 => rfl
  | 0, 1 => rfl
  | 0, 2 => rfl
  | 0, 3 => rfl
  | 1, 0 => rfl
  | 1, 1 => rfl
  | 1, 2 => rfl
  | 1, 3 => rfl
  | 2, 0 => rfl
  | 2, 1 => rfl
  | 2, 2 => rfl
  | 2, 3 => rfl
  | 3, 0 => rfl
  | 3, 1 => rfl
  | 3, 2 => rfl
  | 3, 3 => rfl

@[simp] theorem Quad.toNats_length (q : Quad) : q.toNats.length = 4 := rfl

@[simp] theorem Pair.toNats_length (q : Pair) : q.toNats.length = 2 := rfl

/-- One word delivered: only register 0 changes. -/
@[simp] theorem Quad.store_one (q : Quad) (a : Nat) :
    q.store [a] = { q with w0 := BitVec.ofNat 64 a } := rfl

/-- Two words delivered: registers 0 and 1 change. -/
@[simp] theorem Quad.store_two (q : Quad) (a b : Nat) :
    q.store [a, b] = { q with w0 := BitVec.ofNat 64 a, w1 := BitVec.ofNat 64 b } := rfl

/-- Four words delivered: every register changes. -/
@[simp] theorem Quad.store_four (q : Quad) (a b c d : Nat) :
    q.store [a, b, c, d] =
      ⟨BitVec.ofNat 64 a, BitVec.ofNat 64 b, BitVec.ofNat 64 c, BitVec.ofNat 64 d⟩ := rfl

/-- One word delivered: only register 0 changes. -/
@[simp] theorem Pair.store_one (q : Pair) (a : Nat) :
    q.store [a] = { q with w0 := BitVec.ofNat 64 a } := rfl

/-- Two words delivered: both registers change. -/
@[simp] theorem Pair.store_two (q : Pair) (a b : Nat) :
    q.store [a, b] = ⟨BitVec.ofNat 64 a, BitVec.ofNat 64 b⟩ := rfl

/-- A register that receives a number below `2^64` holds that number; one beyond the numbers keeps its value. -/
theorem deliver_toNat (vs : List Nat) (i : Nat) (old : Word) (h : ∀ v ∈ vs, v < 2 ^ 64) :
    (deliver vs i old).toNat = vs.getD i old.toNat := by
  unfold deliver
  cases hv : vs[i]? with
  | none => simp [List.getD, hv]
  | some v =>
    have hm : v ∈ vs := List.mem_of_getElem? hv
    simpa [List.getD, hv] using h v hm

/-! ### The readiness check -/

theorem whenReady_ready {i : Instr} {s : State} (f : State → State) (h : ready i s.status = true) :
    whenReady i f s = .next (f s) := by
  simp [whenReady, h]

theorem whenReady_unready {i : Instr} {s : State} (f : State → State) (h : ready i s.status = false) :
    whenReady i f s = .next (raise .uninit (encode i) s) := by
  simp [whenReady, h]

/-- All that a command can do: its effect when its engine state is valid, the `UNINIT` record when it is not. -/
theorem whenReady_next {i : Instr} {f : State → State} {s t : State} (h : whenReady i f s = .next t) :
    (ready i s.status = true ∧ t = f s) ∨
      (ready i s.status = false ∧ t = raise .uninit (encode i) s) := by
  cases hr : ready i s.status with
  | true =>
    rw [whenReady_ready f hr] at h
    injection h with h
    exact .inl ⟨rfl, h.symm⟩
  | false =>
    rw [whenReady_unready f hr] at h
    injection h with h
    exact .inr ⟨rfl, h.symm⟩

/-- The readiness check always answers a next state. -/
theorem whenReady_answers (i : Instr) (f : State → State) (s : State) :
    ∃ t, whenReady i f s = .next t := by
  cases hr : ready i s.status with
  | true => exact ⟨_, whenReady_ready f hr⟩
  | false => exact ⟨_, whenReady_unready f hr⟩

/-- A command whose engine state is not valid records `UNINIT` with its own word and does nothing else (R174). -/
theorem exec_unready {i : Instr} {s : State} (h : ready i s.status = false) :
    exec i s = .next (raise .uninit (encode i) s) := by
  cases i <;> simp only [exec, execLcgSeed, execLcgNext, execLcgDiscard, execPhxSetKey, execPhxSetCtr,
    execPhxNext, execPhxJump, execPhxGen] <;>
    exact whenReady_unready _ h

/-- Every command answers a next state: its own effect or the `UNINIT` record. -/
theorem exec_answers (i : Instr) (s : State) : ∃ t, exec i s = .next t := by
  cases i <;> simp only [exec, execLcgSeed, execLcgNext, execLcgDiscard, execPhxSetKey, execPhxSetCtr,
    execPhxNext, execPhxJump, execPhxGen] <;>
    exact whenReady_answers _ _ s

/-! ### The port -/

/-- All that a `RegRead` can do (R81, R173, R177). -/
theorem regRead_cases (idx : RegIndex) (s : State) :
    (∃ r, readableReg idx = some r ∧ regRead idx s = (readReg r s, s)) ∨
    (readableReg idx = none ∧ s.status.err = true ∧ regRead idx s = (0, s)) ∨
    (readableReg idx = none ∧ s.status.err = false ∧
      regRead idx s = (0, raise .badReg (BitVec.ofNat 64 idx.toNat) s)) := by
  unfold regRead
  cases hr : readableReg idx with
  | some r => exact .inl ⟨r, rfl, rfl⟩
  | none =>
    cases he : s.status.err with
    | true => exact .inr (.inl ⟨rfl, rfl, by simp⟩)
    | false => exact .inr (.inr ⟨rfl, rfl, by simp⟩)

/-- All that a `RegWrite` can do (R82, R173, R177). -/
theorem regWrite_cases (idx : RegIndex) (v : Word) (s : State) :
    (s.status.err = true ∧ regWrite idx v s = .next s) ∨
    (s.status.err = false ∧ ∃ i, regAt idx = some (.op i) ∧ regWrite idx v s = .next (s.setOp i v)) ∨
    (s.status.err = false ∧ regAt idx = some .cmd ∧ regWrite idx v s = execute v s) ∨
    (s.status.err = false ∧ regAt idx ≠ some .cmd ∧ (∀ i, regAt idx ≠ some (.op i)) ∧
      regWrite idx v s = .next (raise .badReg (BitVec.ofNat 64 (256 + idx.toNat)) s)) := by
  cases he : s.status.err with
  | true => exact .inl ⟨rfl, by simp [regWrite, he]⟩
  | false =>
    refine .inr ?_
    cases hr : regAt idx with
    | none => exact .inr (.inr ⟨rfl, by simp, by simp, by simp [regWrite, he, hr]⟩)
    | some r =>
      cases r with
      | op i => exact .inl ⟨rfl, i, rfl, by simp [regWrite, he, hr]⟩
      | cmd => exact .inr (.inl ⟨rfl, rfl, by simp [regWrite, he, hr]⟩)
      | config => exact .inr (.inr ⟨rfl, by simp, by simp, by simp [regWrite, he, hr]⟩)
      | status => exact .inr (.inr ⟨rfl, by simp, by simp, by simp [regWrite, he, hr]⟩)
      | finfo => exact .inr (.inr ⟨rfl, by simp, by simp, by simp [regWrite, he, hr]⟩)
      | out _ => exact .inr (.inr ⟨rfl, by simp, by simp, by simp [regWrite, he, hr]⟩)
      | x => exact .inr (.inr ⟨rfl, by simp, by simp, by simp [regWrite, he, hr]⟩)
      | ctr _ => exact .inr (.inr ⟨rfl, by simp, by simp, by simp [regWrite, he, hr]⟩)
      | key _ => exact .inr (.inr ⟨rfl, by simp, by simp, by simp [regWrite, he, hr]⟩)

/-- All that `Execute` can do after decoding (R83). -/
theorem execute_cases (w : Word) (s : State) :
    (∃ e, decode w = .error e ∧ execute w s = .next (raise .illegalCmd w s)) ∨
    (∃ i, decode w = .ok i ∧ execute w s = exec i s) := by
  cases hd : decode w with
  | error e => exact .inl ⟨e, rfl, by simp [execute, hd]⟩
  | ok i => exact .inr ⟨i, rfl, by simp [execute, hd]⟩

/-! ### The register map -/

/-- The only index that names `CMD` is 3 (R41). -/
theorem regAt_eq_cmd (idx : RegIndex) : regAt idx = some .cmd ↔ idx = 3 := by
  revert idx; decide

/-- The indices that name an operand register are 4 to 7 (R41). -/
theorem regAt_eq_op (idx : RegIndex) (i : Fin 4) :
    regAt idx = some (.op i) ↔ idx.toNat = 4 + i.val := by
  revert idx i; decide

/-- The indices a `RegRead` may not read: `CMD` and the unmapped ones (R41, R173). -/
theorem readableReg_eq_none (idx : RegIndex) :
    readableReg idx = none ↔ idx.toNat = 3 ∨ (13 ≤ idx.toNat ∧ idx.toNat ≤ 15) ∨ 22 ≤ idx.toNat := by
  revert idx; decide

/-! ### The step -/

theorem step_idle {s : State} (h : s.pending = []) : step s = .next s := by
  simp [step, hostStep, h]

theorem step_issue {s : State} {t : Transaction} {rest : List Transaction} (h : s.pending = t :: rest) :
    step s = perform t (s.setPending rest) := by
  simp [step, hostStep, h]

theorem perform_regRead (idx : RegIndex) (s : State) :
    perform (.regRead idx) s = .next ((regRead idx s).2.answer (regRead idx s).1) := rfl

theorem perform_regWrite (idx : RegIndex) (v : Word) (s : State) :
    perform (.regWrite idx v) s = regWrite idx v s := rfl

theorem perform_reset (s : State) : perform .reset s = .next (resetBlock s) := rfl

/-- A command write in a block that is not faulted executes its word. -/
theorem perform_commandWrite {s : State} (w : Word) (h : s.status.err = false) :
    perform (commandWrite w) s = execute w s := by
  rcases regWrite_cases 3 w s with ⟨he, _⟩ | ⟨_, i, hi, _⟩ | ⟨_, _, hx⟩ | ⟨_, hc, _⟩
  · simp [h] at he
  · rw [(regAt_eq_cmd 3).2 rfl] at hi; simp at hi
  · exact hx
  · exact absurd ((regAt_eq_cmd 3).2 rfl) hc

end Sys2Proof.Machine
end

