-- ==== Sys2Proof/Laws/Exec.lean ====
section
/-! SUPPORT. What each command can do, once: its effect when its engine state is valid, as a composition of state
updates, and the inversion of `exec`. The record of a command that is not ready is `exec_unready`. -/

namespace Sys2Proof.Machine

theorem exec_lcgSeed (s : State) :
    exec .lcgSeed s = .next ((s.setX (scalarOperand s % s.lcg.m)).markX) := rfl

theorem exec_lcgNext {s : State} (h : s.status.xv = true) :
    exec .lcgNext s = .next ((s.setX (lcgF s.lcg s.x.toNat)).setOut [lcgF s.lcg s.x.toNat]) := by
  unfold exec execLcgNext
  exact whenReady_ready _ h

theorem exec_lcgDiscard {s : State} (h : s.status.xv = true) :
    exec .lcgDiscard s =
      .next (s.setX (((jumpCoeffs s.lcg (scalarOperand s)).1 * s.x.toNat +
        (jumpCoeffs s.lcg (scalarOperand s)).2) % s.lcg.m)) := by
  unfold exec execLcgDiscard
  exact whenReady_ready _ h

theorem exec_phxSetKey (s : State) :
    exec .phxSetKey s = .next ((s.setKey (keyOperand s)).markKey) := rfl

theorem exec_phxSetCtr (s : State) :
    exec .phxSetCtr s = .next ((s.setCtr (counterOperand s)).markCtr) := rfl

theorem exec_phxGen {s : State} (hc : s.status.cv = true) (hk : s.status.kv = true) :
    exec .phxGen s = .next (s.setOut (generate s.phx (counterWords s) (keyWords s))) := by
  unfold exec execPhxGen
  exact whenReady_ready _ (by simp [ready, hc, hk])

theorem exec_phxNext {s : State} (hc : s.status.cv = true) (hk : s.status.kv = true) :
    exec .phxNext s =
      .next ((s.setOut (generate s.phx (counterWords s) (keyWords s))).setCtr
        (ctrAdd s.phx (counterWords s) 1)) := by
  unfold exec execPhxNext
  exact whenReady_ready _ (by simp [ready, hc, hk])

theorem exec_phxJump {s : State} (h : s.status.cv = true) :
    exec .phxJump s = .next (s.setCtr (ctrAdd s.phx (counterWords s) (scalarOperand s))) := by
  unfold exec execPhxJump
  exact whenReady_ready _ h

/-- All that a command can do: the `UNINIT` record, or its own effect. -/
theorem exec_cases {i : Instr} {s t : State} (h : exec i s = .next t) :
    (ready i s.status = false ∧ t = raise .uninit (encode i) s) ∨
    (i = .lcgSeed ∧ t = (s.setX (scalarOperand s % s.lcg.m)).markX) ∨
    (i = .lcgNext ∧ s.status.xv = true ∧
      t = (s.setX (lcgF s.lcg s.x.toNat)).setOut [lcgF s.lcg s.x.toNat]) ∨
    (i = .lcgDiscard ∧ s.status.xv = true ∧
      t = s.setX (((jumpCoeffs s.lcg (scalarOperand s)).1 * s.x.toNat +
        (jumpCoeffs s.lcg (scalarOperand s)).2) % s.lcg.m)) ∨
    (i = .phxSetKey ∧ t = (s.setKey (keyOperand s)).markKey) ∨
    (i = .phxSetCtr ∧ t = (s.setCtr (counterOperand s)).markCtr) ∨
    (i = .phxNext ∧ s.status.cv = true ∧ s.status.kv = true ∧
      t = (s.setOut (generate s.phx (counterWords s) (keyWords s))).setCtr
        (ctrAdd s.phx (counterWords s) 1)) ∨
    (i = .phxJump ∧ s.status.cv = true ∧
      t = s.setCtr (ctrAdd s.phx (counterWords s) (scalarOperand s))) ∨
    (i = .phxGen ∧ s.status.cv = true ∧ s.status.kv = true ∧
      t = s.setOut (generate s.phx (counterWords s) (keyWords s))) := by
  cases hr : ready i s.status with
  | false =>
    rw [exec_unready hr] at h
    injection h with h
    exact .inl ⟨rfl, h.symm⟩
  | true =>
    refine .inr ?_
    cases i <;> simp only [ready, Bool.and_eq_true] at hr
    · rw [exec_lcgSeed] at h; injection h with h; simp [h]
    · rw [exec_lcgNext hr] at h; injection h with h; simp [h, hr]
    · rw [exec_lcgDiscard hr] at h; injection h with h; simp [h, hr]
    · rw [exec_phxSetKey] at h; injection h with h; simp [h]
    · rw [exec_phxSetCtr] at h; injection h with h; simp [h]
    · rw [exec_phxNext hr.1 hr.2] at h; injection h with h; simp [h, hr]
    · rw [exec_phxJump hr] at h; injection h with h; simp [h, hr]
    · rw [exec_phxGen hr.1 hr.2] at h; injection h with h; simp [h, hr]

/-! ### The word groups of an instance: two or four words in use -/

/-- The counter words in use: the first two registers, or all four. -/
theorem counterWords_cases (s : State) :
    (s.phx.N = 2 ∧ counterWords s = [s.ctr.w0.toNat, s.ctr.w1.toNat]) ∨
    (s.phx.N = 4 ∧
      counterWords s = [s.ctr.w0.toNat, s.ctr.w1.toNat, s.ctr.w2.toNat, s.ctr.w3.toNat]) := by
  rcases phx_N_cases s with h | h
  · exact .inl ⟨h, by simp [counterWords, Quad.toNats, h]⟩
  · exact .inr ⟨h, by simp [counterWords, Quad.toNats, h]⟩

/-- The key words in use: the first register, or both. -/
theorem keyWords_cases (s : State) :
    (s.phx.N = 2 ∧ keyWords s = [s.key.w0.toNat]) ∨
    (s.phx.N = 4 ∧ keyWords s = [s.key.w0.toNat, s.key.w1.toNat]) := by
  rcases phx_N_cases s with h | h
  · exact .inl ⟨h, by simp [keyWords, Pair.toNats, h]⟩
  · exact .inr ⟨h, by simp [keyWords, Pair.toNats, h]⟩

@[simp] theorem counterWords_length (s : State) : (counterWords s).length = s.phx.N := by
  rcases counterWords_cases s with ⟨h, h2⟩ | ⟨h, h2⟩ <;> simp [h, h2]

@[simp] theorem keyWords_length (s : State) : (keyWords s).length = s.phx.N / 2 := by
  rcases keyWords_cases s with ⟨h, h2⟩ | ⟨h, h2⟩ <;> simp [h, h2]

@[simp] theorem counterOperand_length (s : State) : (counterOperand s).length = s.phx.N := by
  rcases phx_N_cases s with h | h <;> simp [counterOperand, Quad.toNats, h]

@[simp] theorem keyOperand_length (s : State) : (keyOperand s).length = s.phx.N / 2 := by
  rcases phx_N_cases s with h | h <;> simp [keyOperand, Quad.toNats, h]

end Sys2Proof.Machine
end

