-- ==== Sys2Proof/Laws/PerInstr.lean ====
section
/-! SUPPORT. Statements for all instructions, one lemma per constructor of `Instr`. -/

namespace Sys2Proof.Laws

/-- Encoding an instruction and decoding the word gives the instruction back (30_encoding.md R62, R65), and the
reserved field of the word is 0 (R61). -/
def Encoding.Statement (i : Instr) : Prop :=
  i.wf = true ∧ decode (encode i) = .ok i ∧ fieldRsv (encode i) = 0

theorem Encoding.lcgSeed : Encoding.Statement .lcgSeed := ⟨rfl, rfl, rfl⟩

theorem Encoding.lcgNext : Encoding.Statement .lcgNext := ⟨rfl, rfl, rfl⟩

theorem Encoding.lcgDiscard : Encoding.Statement .lcgDiscard := ⟨rfl, rfl, rfl⟩

theorem Encoding.phxSetKey : Encoding.Statement .phxSetKey := ⟨rfl, rfl, rfl⟩

theorem Encoding.phxSetCtr : Encoding.Statement .phxSetCtr := ⟨rfl, rfl, rfl⟩

theorem Encoding.phxNext : Encoding.Statement .phxNext := ⟨rfl, rfl, rfl⟩

theorem Encoding.phxJump : Encoding.Statement .phxJump := ⟨rfl, rfl, rfl⟩

theorem Encoding.phxGen : Encoding.Statement .phxGen := ⟨rfl, rfl, rfl⟩

end Sys2Proof.Laws
end

