-- ==== Sys2Proof/Tests/Slice0.lean ====
section
/-! SUPPORT. Tests of the model, each a named theorem. Expected values come from spec/ (95_test_vectors.md unless a
comment names another file), never from the model. The last part shows, for each obligation with hypotheses, a concrete
state and operands that meet them. -/

namespace Sys2Proof.Tests

open Sys2Proof Sys2Proof.Machine

/-- A part of the next state, where there is one. -/
def look {α : Type} (o : Host.Outcome State Fault Refusal) (f : State → α) : Option α :=
  match o with
  | .next s => some (f s)
  | .fault _ => none
  | .refused _ => none

/-- An `LCG31 + P4x32` block with both engines valid, registers as the arguments say. -/
def block (x : Word) (ctr : Quad) (key : Pair) (op : Quad) : State :=
  { State.reset with x := x, ctr := ctr, key := key, op := op, status := ⟨true, true, true, false, .noFault⟩ }

/-- The block of the witnesses: small values everywhere. -/
def busy : State := block 1 ⟨1, 2, 3, 4⟩ ⟨5, 6⟩ ⟨7, 8, 9, 10⟩

/-- The same block as another instance. -/
def busyAs (l : LcgVariant) (p : PhiloxVariant) : State := { busy with inst := ⟨l, p⟩ }

/-- A valid state of a two-word instance, `LCG48 + P2x64`. -/
def busy2 : State :=
  { block 1 ⟨1, 2, 0, 0⟩ ⟨5, 0⟩ ⟨7, 8, 9, 10⟩ with inst := ⟨.lcg48, .p2x64⟩ }

/-- A block in the faulted state after an `ILLEGAL_CMD` record of word 0 (section 2.1). -/
def faulted : State := { busy with status := ⟨true, true, true, true, .illegalCmd⟩ }

/-- A block as just reset, with a host transaction pending. -/
def waiting (t : Transaction) : State := { State.reset with pending := [t] }

/-! ### Well-formedness: each check with a term it refuses (00_scope.md R4 to R6) -/

theorem test_wf_instr : Instr.phxGen.wf = true := by decide

theorem test_wf_lcg_smallest_m : LcgParams.wf ⟨0, 0, 2⟩ = true := by decide

theorem test_wf_lcg_largest_m : LcgParams.wf ⟨5, 1, 2 ^ 64⟩ = true := by decide

theorem test_wf_lcg_m_too_small : LcgParams.wf ⟨5, 1, 1⟩ = false := by decide

theorem test_wf_lcg_m_too_large : LcgParams.wf ⟨5, 1, 2 ^ 64 + 1⟩ = false := by decide

theorem test_wf_philox_w : PhiloxParams.wf ⟨16, 2, 10, [3], [5]⟩ = false := by decide

theorem test_wf_philox_n : PhiloxParams.wf ⟨32, 3, 10, [3], [5]⟩ = false := by decide

theorem test_wf_philox_m_count : PhiloxParams.wf ⟨32, 4, 10, [3], [5, 7]⟩ = false := by decide

theorem test_wf_philox_wc_count : PhiloxParams.wf ⟨32, 4, 10, [3, 5], [7]⟩ = false := by decide

theorem test_wf_philox_m_range : PhiloxParams.wf ⟨32, 2, 10, [2 ^ 32], [5]⟩ = false := by decide

theorem test_wf_philox_wc_range : PhiloxParams.wf ⟨32, 2, 10, [3], [2 ^ 32]⟩ = false := by decide

/-! ### Decoding: `RSV` 60 bits of zero, then `ENG`, then `FN` (30_encoding.md R61, R62) -/

theorem test_decode_lcg_seed : decode 0b0001 = .ok .lcgSeed := by decide

theorem test_decode_lcg_next : decode 0b0011 = .ok .lcgNext := by decide

theorem test_decode_lcg_discard : decode 0b0100 = .ok .lcgDiscard := by decide

theorem test_decode_phx_setkey : decode 0b1001 = .ok .phxSetKey := by decide

theorem test_decode_phx_setctr : decode 0b1010 = .ok .phxSetCtr := by decide

theorem test_decode_phx_next : decode 0b1011 = .ok .phxNext := by decide

theorem test_decode_phx_jump : decode 0b1100 = .ok .phxJump := by decide

theorem test_decode_phx_gen : decode 0b1101 = .ok .phxGen := by decide

theorem test_decode_lcg_has_no_emit : decode 0b0101 = .error (.reservedLcgFunction 5) := by decide

theorem test_decode_philox_function_0 : decode 0b1000 = .error (.reservedPhiloxFunction 0) := by decide

theorem test_decode_top_bit_reserved : decode 0x8000000000000001 = .error .reservedBits := by decide

theorem test_decode_table_word : decodeTableWord 64 0xA = some .phxSetCtr := by decide

theorem test_decode_table_word_illegal : decodeTableWord 64 0x13 = none := by decide

/-! ### The LCG commands (sections 2.2, 2.3) -/

/-- `2^64 - 1` on `LCG31` gives 3. -/
theorem test_lcg_seed_reduces :
    look (exec .lcgSeed (block 0 .zero .zero ⟨0xFFFFFFFFFFFFFFFF, 0, 0, 0⟩)) (·.x) = some 3 := by decide

/-- `LCG48` keeps the low 48 bits. -/
theorem test_lcg_seed_lcg48 :
    look (exec .lcgSeed { busyAs .lcg48 .p4x32 with op := ⟨0x123456789ABCDEF0, 0, 0, 0⟩ }) (·.x) =
      some 0x56789ABCDEF0 := by decide

/-- The source's vector: 48271, then 182605794; the new state is the output. -/
theorem test_lcg_next_emits_the_new_state :
    look (exec .lcgNext { busy with x := 48271 }) (fun t => (t.x, t.out.w0)) =
      some (182605794, 182605794) := by decide

/-- The exact 83-bit sum, reduced, on `LCG48`. -/
theorem test_lcg_next_lcg48 :
    look (exec .lcgNext { busyAs .lcg48 .p4x32 with x := 0xFFFFFFFFFFFF }) (·.x) = some 0xFFFA2113199E := by
  decide

/-- `n = m` is one step on `LCG31`, not none. -/
theorem test_lcg_discard_is_not_reduced_mod_m :
    look (exec .lcgDiscard { busy with op := ⟨0x7FFFFFFF, 0, 0, 0⟩ }) (·.x) = some 48271 := by decide

/-- `n = 2^47` on `LCG48` is a translation by `2^47`: an inverse-based shortcut fails here. -/
theorem test_lcg_discard_lcg48 :
    look (exec .lcgDiscard
      { busyAs .lcg48 .p4x32 with x := 0x1234ABCD330E, op := ⟨0x800000000000, 0, 0, 0⟩ }) (·.x) =
      some 0x9234ABCD330E := by decide

/-- The worked trace of 41_lcg.md R105. -/
theorem test_jump_coeffs :
    jumpCoeffs (lcgParams .lcg48) 5 = (0x6E00FCF9C03D, 0x5D5692ACE2BF) := by decide

theorem test_modpow : modpow 48271 10000 (2 ^ 31 - 1) = 399268537 := by decide

theorem test_modpow_modulus_one : modpow 5 3 1 = 0 := by decide

theorem test_modinv : modinv 48270 (2 ^ 31 - 1) = some 1968059542 := by decide

theorem test_modinv_none : modinv 0x5DEECE66C (2 ^ 48) = none := by decide

/-! ### The Philox engine (sections 1.2, 2.4, 2.5) -/

theorem test_mulhilo : mulhilo 32 0xFFFFFFFF 0xD2511F53 = (0xD2511F52, 0x2DAEE0AD) := by decide

theorem test_round2 :
    round2 (philoxParams .p2x32) [0xFFFFFFFF, 0x12345678] [0xDEADBEEF] = [0x1ECF3905, 0x2DA92E6D] := by decide

theorem test_round4_crosses :
    round4 (philoxParams .p4x32) [1, 2, 3, 4] [5, 6] = [5, 0x68DBA805, 2, 0xD2511F53] := by decide

/-- `rk_9` of the zero key (42_philox.md R133). -/
theorem test_round_key : roundKey (philoxParams .p4x32) [0, 0] 9 = [0x8FF34781, 0x96A522AD] := by decide

theorem test_generate_p2x32 :
    generate (philoxParams .p2x32) [0x243F6A88, 0x85A308D3] [0x13198A2E] = [0xDD7CE038, 0xF62A4C12] := by
  decide

theorem test_generate_p2x64 :
    generate (philoxParams .p2x64) [0x243F6A8885A308D3, 0x13198A2E03707344] [0xA4093822299F31D0] =
      [0x0A5E742C2997341C, 0xB0F883D38000DE5D] := by decide

theorem test_generate_p4x32 :
    generate (philoxParams .p4x32) [0x243F6A88, 0x85A308D3, 0x13198A2E, 0x03707344] [0xA4093822, 0x299F31D0] =
      [0xD16CFE09, 0x94FDCCEB, 0x5001E420, 0x24126EA1] := by decide

theorem test_generate_p4x64 :
    generate (philoxParams .p4x64)
      [0x243F6A8885A308D3, 0x13198A2E03707344, 0xA4093822299F31D0, 0x082EFA98EC4E6C89]
      [0x452821E638D01377, 0xBE5466CF34E90C6C] =
      [0xA528F45403E61D95, 0x38C72DBD566E9788, 0xA5A1610E72FD18B5, 0x57BD43B5E52B7FE6] := by decide

/-- Word 1 of `delta` is added though word 0 does not overflow (90_conflicts.md C2). -/
theorem test_ctr_add_wide_delta : ctrAdd (philoxParams .p2x32) [0, 0] 0x100000000 = [0, 1] := by decide

theorem test_ctr_add_words :
    ctrAddWords (philoxParams .p4x32) [0xFFFFFFFF, 0xFFFFFFFE, 0xFFFFFFFF, 7] 0x100000001 = [0, 0, 0, 8] := by
  decide

/-! ### The Philox commands -/

/-- Bits 63:32 of `OP[j]` are ignored on a 32-bit variant, and `OP[1]` on a 2-word variant (program P4). -/
theorem test_phx_setkey_truncates :
    look (exec .phxSetKey
      { State.resetOf ⟨.lcg31, .p2x32⟩ with op := ⟨0xFFFFFFFF13198A2E, 9, 0, 0⟩ })
      (fun t => (t.key, statusWord t.status)) = some (⟨0x13198A2E, 0⟩, 0x2) := by decide

/-- A 2-word variant ignores `OP[2]` and `OP[3]` (42_philox.md R137). -/
theorem test_phx_setctr_two_words :
    look (exec .phxSetCtr
      { State.resetOf ⟨.lcg31, .p2x32⟩ with op := ⟨0x1FFFFFFFF, 0, 7, 8⟩ })
      (fun t => (t.ctr, statusWord t.status)) = some (⟨0xFFFFFFFF, 0, 0, 0⟩, 0x4) := by decide

/-- Draw 0 of the `P4x32` stream of section 2.6; the carry goes through words 0 and 1. -/
theorem test_phx_next_emits_then_increments :
    look (exec .phxNext (block 0 ⟨0xFFFFFFFF, 0xFFFFFFFF, 0, 0⟩ ⟨0xA4093822, 0x299F31D0⟩ .zero))
      (fun t => (t.out, t.ctr)) =
      some (⟨0x38F45593, 0x6C934049, 0x394697BA, 0xFE7ECAF7⟩, ⟨0, 0, 1, 0⟩) := by decide

/-- `P4x32`, `CTR = [1, 0, 0, 0]`, `delta = 2^64 - 1` is not minus one (42_philox.md R140). -/
theorem test_phx_jump :
    look (exec .phxJump (block 0 ⟨1, 0, 0, 0⟩ .zero ⟨0xFFFFFFFFFFFFFFFF, 0, 0, 0⟩)) (·.ctr) =
      some ⟨0, 0, 1, 0⟩ := by decide

/-- `P2x32` of the zero input writes two result registers and keeps the counter (42_philox.md R138). -/
theorem test_phx_gen_two_words :
    look (exec .phxGen { busyAs .lcg31 .p2x32 with ctr := .zero, key := .zero, out := ⟨1, 2, 3, 4⟩ })
      (fun t => (t.out, t.ctr)) = some (⟨0xFF1DAE59, 0x6CD10DF2, 3, 4⟩, ⟨0, 0, 0, 0⟩) := by decide

/-! ### The port and the faults (section 2.1) -/

theorem test_uninit_record :
    look (step (waiting (asmCmd .lcgNext))) (fun t => (statusWord t.status, t.finfo)) = some (0x38, 0x3) := by
  decide

theorem test_illegal_record :
    look (step (waiting (asmCmdw 0x13))) (fun t => (statusWord t.status, t.finfo)) = some (0x18, 0x13) := by
  decide

theorem test_bad_write_record :
    look (step (waiting (asmWr .x 5))) (fun t => (statusWord t.status, t.finfo)) = some (0x28, 0x10C) := by
  decide

theorem test_bad_read_record :
    look (step (waiting (.regRead 14))) (fun t => (t.returned, statusWord t.status, t.finfo)) =
      some ([0], 0x28, 0xE) := by decide

theorem test_read_config :
    look (step (waiting (asmRd .config))) (·.returned) = some [0xA20] := by decide

theorem test_faulted_write_ignored : look (regWrite 4 7 faulted) id = some faulted := by decide

theorem test_reset_leaves_the_faulted_state :
    look (perform .reset faulted) (fun t => (statusWord t.status, t.x)) = some (0, 0) := by decide

/-- Program P1 to its first two outputs. -/
theorem test_program_p1 :
    look (runTransactions (pseudoLcgSeed 1 ++ pseudoLcgNext ++ pseudoLcgNext) State.reset)
      (·.returned) = some [48271, 182605794] := by decide

/-- 30_encoding.md R67, `N = 2`. -/
theorem test_pseudo_phx_next :
    pseudoPhxNext 2 = [.regWrite 3 0xB, .regRead 8, .regRead 9] := by decide

theorem test_with_fetch_word :
    look (step (State.reset.withFetchWord 64 0x9)) (·.status.kv) = some true := by decide

/-! ### Witnesses: every hypothesis of an obligation is met by a concrete state and operands -/

theorem witness_encode_and_decode : Instr.phxGen.wf = true ∧ decode 0xD = .ok .phxGen := by decide

theorem witness_step_performs_the_oldest_transaction :
    (waiting (.regRead 14)).pending = .regRead 14 :: [] ∧
      regRead 14 { waiting (.regRead 14) with pending := [] } =
        (0, raise .badReg 14 { waiting (.regRead 14) with pending := [] }) := by decide

theorem witness_step_runs_the_decoded_command :
    (waiting (.regWrite 3 0x9)).pending = .regWrite 3 0x9 :: [] ∧
      (waiting (.regWrite 3 0x9)).status.err = false ∧ decode 0x9 = .ok .phxSetKey := by decide

/-- `PlacedCommandRunsNext`, and the initialising commands, which need nothing more. -/
theorem witness_no_fault_recorded : busy.status.err = false := by decide

theorem witness_idle : busy.pending = [] := by decide

theorem witness_reg_read_first_and_last :
    ((0 : RegIndex), configWord busy.inst) = (0, 0xA20) ∧ ((21 : RegIndex), busy.key.w1) = (21, 6) := by decide

/-- Both clauses at the boundaries of the unmapped ranges and of the writable range. -/
theorem witness_bad_index :
    busy.status.err = false ∧
      (∀ idx ∈ ([3, 13, 15, 22, 255] : List RegIndex),
        idx.toNat = 3 ∨ (13 ≤ idx.toNat ∧ idx.toNat ≤ 15) ∨ 22 ≤ idx.toNat) ∧
      (∀ idx ∈ ([0, 2, 8, 255] : List RegIndex), idx.toNat ≠ 3 ∧ ¬ (4 ≤ idx.toNat ∧ idx.toNat ≤ 7)) := by
  decide

theorem witness_operand_write :
    ∀ idx ∈ ([4, 7] : List RegIndex), 4 ≤ idx.toNat ∧ idx.toNat ≤ 7 := by decide

theorem witness_illegal_word :
    ∀ w ∈ ([0x0, 0x2, 0xE, 0x10, 0xFFFFFFFFFFFFFFFF] : List Word),
      w ∉ ([0x1, 0x3, 0x4, 0x9, 0xA, 0xB, 0xC, 0xD] : List Word) := by simp

/-- After reset every valid flag is clear; with `CV` alone, `KV` is the missing one. -/
theorem witness_uninitialised_use :
    State.reset.status.err = false ∧ State.reset.status.xv = false ∧ State.reset.status.cv = false ∧
      State.reset.status.kv = false ∧ State.reset.markCtr.status.cv = true ∧
      State.reset.markCtr.status.kv = false ∧ State.reset.markCtr.status.err = false := by decide

theorem witness_faulted_state :
    faulted.status.err = true ∧ readableReg 12 = some .x ∧ readableReg 3 = none ∧ readableReg 13 = none ∧
      readableReg 255 = none := by decide

theorem witness_faulted_run :
    faulted.status.err = true ∧
      Transaction.reset ∉ { faulted with pending := [.regWrite 4 7, .regRead 12] }.pending := by decide

theorem witness_reset_reads : readableReg 21 = some (.key 1) ∧ Reg.key 1 ≠ Reg.config := by decide

/-- Each variant's code, and a step of the second clause. -/
theorem witness_config :
    Instance.lcg ⟨.lcg48, .p4x64⟩ = .lcg48 ∧ Instance.phx ⟨.lcg48, .p4x64⟩ = .p4x64 ∧
      Instance.lcg ⟨.lcg31, .p2x32⟩ = .lcg31 ∧ Instance.phx ⟨.lcg31, .p2x32⟩ = .p2x32 ∧
      Instance.phx ⟨.lcg31, .p2x64⟩ = .p2x64 ∧ Instance.phx ⟨.lcg31, .p4x32⟩ = .p4x32 ∧
      look (step busy) id = some busy := by decide

/-- The valid clauses of the command statements, for a two-word and a four-word instance; also `DiscardsCompose`,
`DiscardThenNextIsSequentialStepping`, `JumpThenGenerateIsSequentialDrawing` and `OutputStreamsOfConsecutiveDraws`. -/
theorem witness_valid_engines :
    (∀ s ∈ [busy, busy2], s.status.err = false ∧ s.status.xv = true ∧ s.status.cv = true ∧
      s.status.kv = true ∧ s.x.toNat < s.lcg.m ∧ ∀ i, (s.ctr.get i).toNat < 2 ^ s.phx.W) ∧
      busy2.phx.N = 2 ∧ busy.phx.N = 4 := by decide

/-- The `UNINIT` clauses of the command statements. -/
theorem witness_invalid_engines :
    State.reset.status.err = false ∧ ready .lcgNext State.reset.status = false ∧
      ready .lcgDiscard State.reset.status = false ∧ ready .phxGen State.reset.status = false ∧
      ready .phxNext State.reset.status = false ∧ ready .phxJump State.reset.status = false := by decide

/-- Each clause of the frame statement: both engines, the named commands, each flag set, the `UNINIT` record. -/
theorem witness_frame :
    busy.status.err = false ∧ engineOf .lcgDiscard = .lcg ∧ engineOf .phxJump = .philox ∧
      look (exec .lcgDiscard busy) (·.status.err) = some false ∧
      look (exec .phxGen busy) (·.status.err) = some false ∧
      look (exec .phxJump busy) (·.status.err) = some false ∧
      look (exec .lcgSeed State.reset) (·.status.xv) = some true ∧
      look (exec .phxSetKey State.reset) (·.status.kv) = some true ∧
      look (exec .phxSetCtr State.reset) (·.status.cv) = some true ∧
      look (exec .phxGen State.reset) (·.status.err) = some true := by decide

/-- A step that changes each register group. -/
theorem witness_registers_change :
    look (step { busy with pending := [.regWrite 3 0x3] }) (fun t => decide (t.x ≠ busy.x)) = some true ∧
      look (step { busy with pending := [.regWrite 3 0xC] }) (fun t => decide (t.ctr ≠ busy.ctr)) = some true ∧
      look (step { busy with pending := [.regWrite 3 0x9] }) (fun t => decide (t.key ≠ busy.key)) = some true ∧
      look (step { busy with pending := [.regWrite 7 0] }) (fun t => decide (t.op ≠ busy.op)) = some true ∧
      look (step { busy with pending := [.regWrite 3 0xD] }) (fun t => decide (t.out ≠ busy.out)) = some true := by
  decide

/-- A step that is no `Reset`, from a state with every flag set and from a faulted one. -/
theorem witness_only_reset_clears :
    (∀ rest, { busy with pending := [.regWrite 3 0x3] }.pending ≠ .reset :: rest) ∧
      look (step { busy with pending := [.regWrite 3 0x3] }) (·.status) = some busy.status ∧
      (∀ rest, faulted.pending ≠ .reset :: rest) ∧ faulted.status.err = true ∧
      look (step faulted) id = some faulted :=
  ⟨by simp, by decide, by simp [faulted, busy, block, State.reset, State.resetOf], by decide, by decide⟩

/-- A state with valid engines that meets the invariant. -/
theorem witness_invariant : busy2.Inv where
  xInRange := by decide
  ctrInRange := by decide
  keyInRange := by decide
  ctrUnused := by decide
  keyUnused := by decide
  outUnused := by decide
  xUnseeded := by decide
  ctrUnset := by decide
  keyUnset := by decide
  errCause := by decide
  finfoClear := by decide
  illegalRecord := nofun
  badRegRecord := nofun
  uninitRecord := nofun

/-- A faulted state that meets the invariant, with the record of a read of the unmapped index 14. -/
theorem witness_invariant_faulted : (raise .badReg 14 busy).Inv where
  xInRange := by decide
  ctrInRange := by decide
  keyInRange := by decide
  ctrUnused := by decide
  keyUnused := by decide
  outUnused := by decide
  xUnseeded := by decide
  ctrUnset := by decide
  keyUnset := by decide
  errCause := by decide
  finfoClear := by decide
  illegalRecord := nofun
  badRegRecord := fun _ => ⟨14, .inl (by decide)⟩
  uninitRecord := nofun

/-- Every clause of the affine statement: a record with `a mod m = 1`, and the inverse of `a - 1` for `LCG31`. -/
theorem witness_affine :
    LcgParams.wf ⟨1, 3, 2⟩ = true ∧ 1 % 2 = 1 ∧ (lcgParams .lcg31).wf = true ∧ 0 < (lcgParams .lcg31).m ∧
      1968059542 * ((lcgParams .lcg31).a + (lcgParams .lcg31).m - 1) % (lcgParams .lcg31).m = 1 := by decide

/-- The largest `n`, and the loop invariant at the first and at the last iteration of `n = 5`. -/
theorem witness_jump_loop : 2 ^ 64 - 1 < 2 ^ 64 ∧ 2 ^ 0 ≤ 2 * 5 ∧ 2 ^ 3 ≤ 2 * 5 := by decide

theorem witness_modulus_one : 1 ≤ 1 ∧ (lcgParams .lcg48).wf = true := by decide

theorem witness_closed_form :
    LcgParams.wf ⟨1, 3, 5⟩ = true ∧ closedC ⟨1, 3, 5⟩ 4 = some 2 ∧ closedC (lcgParams .lcg31) 2 = some 0 := by
  decide

/-- Both cases of the composition statement: a sum that fits 64 bits, and an `LCG48` instance. -/
theorem witness_discards_compose :
    (3 : Word).toNat + (4 : Word).toNat < 2 ^ 64 ∧ busy2.inst.lcg = .lcg48 := by decide

theorem witness_lcg_noninterference :
    engineOf .lcgNext = .lcg ∧ busy.inst.lcg = { busy with key := .zero }.inst.lcg ∧
      busy.x = { busy with key := .zero }.x ∧ busy.status.xv = true ∧
      (look (exec .lcgNext busy) (·.x)).isSome ∧ (look (exec .lcgNext { busy with key := .zero }) (·.x)).isSome := by
  decide

/-- The corner `u = 2^W - 1` with the least `v`. -/
theorem witness_mulhilo : 2 ^ 32 - 1 < 2 ^ 32 ∧ 1 < 2 ^ 32 ∧ 1 ≤ 1 := by decide

theorem witness_weyl_keys :
    [5, 6].length = (philoxParams .p4x32).N / 2 ∧ ∀ v ∈ [5, 6], v < 2 ^ (philoxParams .p4x32).W := by decide

theorem witness_injective :
    (philoxParams .p2x32).wf = true ∧ (∀ m ∈ (philoxParams .p2x32).M, m % 2 = 1) ∧
      [1, 2].length = (philoxParams .p2x32).N ∧ [3].length = (philoxParams .p2x32).N / 2 ∧
      (∀ v ∈ [1, 2, 3], v < 2 ^ (philoxParams .p2x32).W) ∧
      generate (philoxParams .p2x32) [1, 2] [3] = generate (philoxParams .p2x32) [1, 2] [3] := by decide

theorem witness_additive :
    [1, 2].length = (philoxParams .p2x32).N ∧ ∀ v ∈ [1, 2], v < 2 ^ (philoxParams .p2x32).W := by decide

theorem witness_philox_jumps : busy.status.cv = true ∧ (3 : Word).toNat + (4 : Word).toNat < 2 ^ 64 := by decide

theorem witness_philox_noninterference :
    busy.inst.phx = { busy with x := 2 }.inst.phx ∧ counterWords busy = counterWords { busy with x := 2 } ∧
      keyWords busy = keyWords { busy with x := 2 } ∧ busy.status.cv = true ∧ busy.status.kv = true ∧
      (look (exec .phxNext busy) (·.ctr)).isSome ∧
      (look (exec .phxNext { busy with x := 2 }) (·.ctr)).isSome := by decide

/-- The destination of a copy; its source is the state of `witness_invariant`. -/
theorem witness_copy :
    (State.resetOf busy2.inst).inst = busy2.inst ∧ (State.resetOf busy2.inst).status.err = false := by decide

theorem witness_leapfrog : busy.status.err = false ∧ 1 ≤ (1 : Word).toNat ∧ busy.x.toNat < busy.lcg.m := by
  decide

end Sys2Proof.Tests
end

section
/-! SUPPORT. What a step does to the registers, once: the relation `Performs` lists what one transaction can do, and
`performs_of_next` reads it off `perform`. Then the facts about single registers that the statements on the state rest
on. -/

namespace Sys2Proof.Machine

/-! ### Decoding back to the command word -/

/-- The three fields of R61 make up the whole word. -/
theorem toNat_eq_fields (w : Word) : w.toNat = 16 * fieldRsv w + 8 * fieldEng w + fieldFn w := by
  have := w.isLt
  simp only [fieldRsv, fieldEng, fieldFn, field]
  omega

theorem encode_toNat_of_decodeLcg {fn : Nat} {i : Instr} (h : decodeLcg fn = .ok i) :
    (encode i).toNat = fn := by
  unfold decodeLcg at h
  split at h <;> cases h <;> rfl

theorem encode_toNat_of_decodePhilox {fn : Nat} {i : Instr} (h : decodePhilox fn = .ok i) :
    (encode i).toNat = 8 + fn := by
  unfold decodePhilox at h
  split at h <;> cases h <;> rfl

/-- A decodable word is the command word of its command (R65). -/
theorem eq_encode_of_decode {w : Word} {i : Instr} (h : decode w = .ok i) : w = encode i := by
  have hw := toNat_eq_fields w
  apply BitVec.eq_of_toNat_eq
  unfold decode at h
  split at h
  · cases h
  · next hrsv =>
    split at h
    · next heng =>
      have := encode_toNat_of_decodeLcg h
      omega
    · next heng =>
      have heng' : fieldEng w < 2 := Nat.mod_lt _ (by decide)
      have := encode_toNat_of_decodePhilox h
      omega

/-! ### What one transaction can do -/

/-- All that a transaction performed in `s` can do: the state after it, with the reason (R81 to R83, R173, R177, R190).
A command is left as `exec`, whose cases are those of `exec_cases`. -/
inductive Performs (s : State) : Transaction → State → Prop where
  | reset : Performs s .reset (resetBlock s)
  | read (idx : RegIndex) (v : Word) : Performs s (.regRead idx) (s.answer v)
  | badRead (idx : RegIndex) (hmap : readableReg idx = none) (herr : s.status.err = false) :
      Performs s (.regRead idx) ((raise .badReg (BitVec.ofNat 64 idx.toNat) s).answer 0)
  | ignored (idx : RegIndex) (v : Word) (herr : s.status.err = true) : Performs s (.regWrite idx v) s
  | operand (idx : RegIndex) (v : Word) (i : Fin 4) (herr : s.status.err = false)
      (hidx : idx.toNat = 4 + i.val) : Performs s (.regWrite idx v) (s.setOp i v)
  | badWrite (idx : RegIndex) (v : Word) (herr : s.status.err = false) (hcmd : idx.toNat ≠ 3)
      (hop : idx.toNat < 4 ∨ 7 < idx.toNat) :
      Performs s (.regWrite idx v) (raise .badReg (BitVec.ofNat 64 (256 + idx.toNat)) s)
  | illegal (w : Word) (e : Illegal) (herr : s.status.err = false) (hdec : decode w = .error e) :
      Performs s (.regWrite 3 w) (raise .illegalCmd w s)
  | command (i : Instr) (t : State) (herr : s.status.err = false) (hexec : exec i s = .next t) :
      Performs s (.regWrite 3 (encode i)) t

theorem performs_regRead (idx : RegIndex) (s : State) :
    Performs s (.regRead idx) ((regRead idx s).2.answer (regRead idx s).1) := by
  rcases regRead_cases idx s with ⟨_, _, h⟩ | ⟨_, _, h⟩ | ⟨hmap, herr, h⟩ <;> rw [h]
  · exact .read idx _
  · exact .read idx _
  · exact .badRead idx hmap herr

theorem performs_execute {w : Word} {s t : State} (herr : s.status.err = false)
    (h : execute w s = .next t) : Performs s (.regWrite 3 w) t := by
  rcases execute_cases w s with ⟨e, hdec, hx⟩ | ⟨i, hdec, hx⟩ <;> rw [hx] at h
  · cases h
    exact .illegal w e herr hdec
  · rw [eq_encode_of_decode hdec]
    exact .command i t herr h

/-- An index whose register is no operand register lies outside 4 to 7 (R41). -/
theorem index_not_operand {idx : RegIndex} (h : ∀ i, regAt idx ≠ some (.op i)) :
    idx.toNat < 4 ∨ 7 < idx.toNat := by
  by_contra hc
  exact h ⟨idx.toNat - 4, by omega⟩ ((regAt_eq_op idx _).2 (by simp only; omega))

theorem performs_regWrite {idx : RegIndex} {v : Word} {s t : State} (h : regWrite idx v s = .next t) :
    Performs s (.regWrite idx v) t := by
  rcases regWrite_cases idx v s with ⟨herr, hx⟩ | ⟨herr, i, hi, hx⟩ | ⟨herr, hcmd, hx⟩ |
    ⟨herr, hcmd, hop, hx⟩ <;> rw [hx] at h
  · cases h
    exact .ignored idx v herr
  · cases h
    exact .operand idx v i herr ((regAt_eq_op idx i).1 hi)
  · rw [(regAt_eq_cmd idx).1 hcmd]
    exact performs_execute herr h
  · cases h
    have hne : idx.toNat ≠ 3 := fun h3 =>
      hcmd ((regAt_eq_cmd idx).2 (BitVec.eq_of_toNat_eq h3))
    exact .badWrite idx v herr hne (index_not_operand hop)

theorem performs_of_next {tr : Transaction} {s t : State} (h : perform tr s = .next t) :
    Performs s tr t := by
  cases tr with
  | regRead idx =>
    rw [perform_regRead] at h
    cases h
    exact performs_regRead idx s
  | regWrite idx v => exact performs_regWrite h
  | reset =>
    rw [perform_reset] at h
    cases h
    exact .reset

/-- A step is idle, or performs the oldest pending transaction in the state with that transaction issued. -/
theorem step_cases {s t : State} (h : step s = .next t) :
    (s.pending = [] ∧ t = s) ∨
      ∃ tr rest, s.pending = tr :: rest ∧ Performs (s.setPending rest) tr t := by
  cases hp : s.pending with
  | nil =>
    rw [step_idle hp] at h
    cases h
    exact .inl ⟨rfl, rfl⟩
  | cons tr rest =>
    rw [step_issue hp] at h
    exact .inr ⟨tr, rest, rfl, performs_of_next h⟩

/-! ### Which commands write which register (R86) -/

/-- The frame of a command: what it keeps, and for each engine register and `OUT` the words of the commands that may
write it. Each clause is read off the field lemmas of the command's updates. -/
structure ExecFrame (i : Instr) (s t : State) : Prop where
  x : t.x = s.x ∨ encode i ∈ ([0x1, 0x3, 0x4] : List Word)
  ctr : t.ctr = s.ctr ∨ encode i ∈ ([0xA, 0xB, 0xC] : List Word)
  key : t.key = s.key ∨ encode i ∈ ([0x9] : List Word)
  out : t.out = s.out ∨ encode i ∈ ([0x3, 0xB, 0xD] : List Word)
  op : t.op = s.op
  inst : t.inst = s.inst
  xv : s.status.xv = true → t.status.xv = true
  kv : s.status.kv = true → t.status.kv = true
  cv : s.status.cv = true → t.status.cv = true

theorem exec_frame {i : Instr} {s t : State} (h : exec i s = .next t) : ExecFrame i s t := by
  rcases exec_cases h with ⟨_, rfl⟩ | ⟨rfl, rfl⟩ | ⟨rfl, _, rfl⟩ | ⟨rfl, _, rfl⟩ | ⟨rfl, rfl⟩ | ⟨rfl, rfl⟩ |
    ⟨rfl, _, _, rfl⟩ | ⟨rfl, _, rfl⟩ | ⟨rfl, _, _, rfl⟩ <;>
  constructor <;> simp [encode]

/-- A part of the state that the port itself leaves alone: only a command or `Reset` can change it. -/
structure KeptByPort {α : Type} (f : State → α) : Prop where
  setPending : ∀ s rest, f (s.setPending rest) = f s := by intros; rfl
  answer : ∀ s v, f (s.answer v) = f s := by intros; rfl
  setOp : ∀ s i v, f (s.setOp i v) = f s := by intros; rfl
  raise : ∀ cause info s, f (raise cause info s) = f s := by intros; rfl

/-- Where the port leaves `f` alone and among the commands only the words `ws` change it, a step that changes `f`
performs `Reset` or a command write of one of `ws`. -/
theorem KeptByPort.changed_by {α : Type} {f : State → α} (hf : KeptByPort f) {ws : List Word}
    (hws : ∀ i s t, exec i s = .next t → f t = f s ∨ encode i ∈ ws)
    {s t : State} (h : step s = .next t) (hne : f t ≠ f s) :
    ∃ rest, s.pending = .reset :: rest ∨ ∃ w ∈ ws, s.pending = .regWrite 3 w :: rest := by
  rcases step_cases h with ⟨_, rfl⟩ | ⟨tr, rest, hpend, hperf⟩
  · exact absurd rfl hne
  refine ⟨rest, ?_⟩
  rw [← hf.setPending s rest] at hne
  cases hperf with
  | reset => exact .inl hpend
  | read idx v => exact absurd (hf.answer _ v) hne
  | badRead idx => exact absurd ((hf.answer _ _).trans (hf.raise _ _ _)) hne
  | ignored => exact absurd rfl hne
  | operand idx v i => exact absurd (hf.setOp _ i v) hne
  | badWrite => exact absurd (hf.raise _ _ _) hne
  | illegal => exact absurd (hf.raise _ _ _) hne
  | command i t _ hexec => exact .inr ⟨encode i, (hws i _ _ hexec).resolve_left hne, hpend⟩

/-- `OP` changes in a step only by `Reset` or by a write to one of the indices 4 to 7 (R16). -/
theorem op_changed_by {s t : State} (h : step s = .next t) (hne : t.op ≠ s.op) :
    ∃ rest, s.pending = .reset :: rest ∨
      ∃ (idx : RegIndex) (v : Word), 4 ≤ idx.toNat ∧ idx.toNat ≤ 7 ∧
        s.pending = .regWrite idx v :: rest := by
  rcases step_cases h with ⟨_, rfl⟩ | ⟨tr, rest, hpend, hperf⟩
  · exact absurd rfl hne
  refine ⟨rest, ?_⟩
  cases hperf with
  | reset => exact .inl hpend
  | operand idx v i _ hidx => exact .inr ⟨idx, v, by omega, by omega, hpend⟩
  | command i t _ hexec => exact absurd (exec_frame hexec).op hne
  | read | badRead | ignored | badWrite | illegal => exact absurd rfl hne

/-- No step changes the variants a block is built with (R18). -/
theorem step_inst {s t : State} (h : step s = .next t) : t.inst = s.inst := by
  rcases step_cases h with ⟨_, rfl⟩ | ⟨tr, rest, _, hperf⟩
  · rfl
  cases hperf with
  | command i t _ hexec => exact (exec_frame hexec).inst
  | reset | read | badRead | ignored | operand | badWrite | illegal => rfl

/-! ### `STATUS` as a word -/

theorem causeCode_le (c : Cause) : causeCode c ≤ 3 := by cases c <;> decide

/-- No part of the sum of R19 is cut. -/
theorem statusWord_toNat (t : Status) :
    (statusWord t).toNat =
      t.xv.toNat + 2 * t.kv.toNat + 4 * t.cv.toNat + 8 * t.err.toNat + 16 * causeCode t.cause := by
  have hx := t.xv.toNat_le
  have hk := t.kv.toNat_le
  have hc := t.cv.toNat_le
  have he := t.err.toNat_le
  have hcause := causeCode_le t.cause
  rw [statusWord, BitVec.toNat_ofNat, Nat.mod_eq_of_lt]
  omega

/-- A bit of a word, read off its number. -/
theorem getLsbD_eq_of_toNat {w : Word} {k : Nat} {b : Bool} (h : w.toNat / 2 ^ k % 2 = b.toNat) :
    w.getLsbD k = b := by
  rw [BitVec.getLsbD, Nat.testBit_eq_decide_div_mod_eq, h]
  cases b <;> rfl

/-! ### Lengths and ranges of the vectors that are delivered -/

theorem deliver_of_length_le {vs : List Nat} {i : Nat} (h : vs.length ≤ i) (old : Word) :
    deliver vs i old = old := by
  simp [deliver, List.getElem?_eq_none h]

/-- A delivered word is no larger than the number it came from. -/
theorem deliver_toNat_lt {vs : List Nat} {b : Nat} (hvs : ∀ v ∈ vs, v < b) (i : Nat) {old : Word}
    (hold : old.toNat < b) : (deliver vs i old).toNat < b := by
  unfold deliver
  split
  · next v hv =>
    rw [BitVec.toNat_ofNat]
    exact (Nat.mod_le _ _).trans_lt (hvs v (List.mem_of_getElem? hv))
  · exact hold

theorem Quad.get_store (q : Quad) (vs : List Nat) (i : Fin 4) :
    (q.store vs).get i = deliver vs i (q.get i) := by
  match i with
  | 0 => rfl
  | 1 => rfl
  | 2 => rfl
  | 3 => rfl

theorem Pair.get_store (q : Pair) (vs : List Nat) (j : Fin 2) :
    (q.store vs).get j = deliver vs j (q.get j) := by
  match j with
  | 0 => rfl
  | 1 => rfl

/-- Two words at most are delivered: registers 2 and 3 keep their value. -/
theorem Quad.store_upper {vs : List Nat} (h : vs.length ≤ 2) (q : Quad) :
    (q.store vs).w2 = q.w2 ∧ (q.store vs).w3 = q.w3 :=
  ⟨deliver_of_length_le h _, deliver_of_length_le (by omega) _⟩

/-- One word at most is delivered: register 1 keeps its value. -/
theorem Pair.store_upper {vs : List Nat} (h : vs.length ≤ 1) (q : Pair) : (q.store vs).w1 = q.w1 :=
  deliver_of_length_le h _

theorem counterOperand_lt (s : State) : ∀ v ∈ counterOperand s, v < 2 ^ s.phx.W := by
  intro v hv
  obtain ⟨u, _, rfl⟩ := List.mem_map.1 hv
  exact Nat.mod_lt _ (Nat.two_pow_pos _)

theorem keyOperand_lt (s : State) : ∀ v ∈ keyOperand s, v < 2 ^ s.phx.W := by
  intro v hv
  obtain ⟨u, _, rfl⟩ := List.mem_map.1 hv
  exact Nat.mod_lt _ (Nat.two_pow_pos _)

theorem ctrAdd_lt (p : PhiloxParams) (ctr : List Nat) (delta : Nat) :
    ∀ v ∈ ctrAdd p ctr delta, v < 2 ^ p.W := by
  intro v hv
  obtain ⟨u, _, rfl⟩ := List.mem_map.1 hv
  exact Nat.mod_lt _ (Nat.two_pow_pos _)

theorem ctrAdd_length (p : PhiloxParams) (ctr : List Nat) (delta : Nat) :
    (ctrAdd p ctr delta).length = p.N := by
  simp [ctrAdd]

theorem generateLoop_length_two {p : PhiloxParams} (hN : p.N = 2) (left r : Nat) (c k : List Nat)
    (hc : c.length = 2) : (generateLoop p left r c k).length = 2 := by
  induction left generalizing r c k with
  | zero => exact hc
  | succ left ih => exact ih _ _ _ (by simp [philoxRound, hN, round2])

/-- On a 2-word variant `generate` answers two words. -/
theorem generate_length_two {s : State} (hN : s.phx.N = 2) :
    (generate s.phx (counterWords s) (keyWords s)).length = 2 :=
  generateLoop_length_two hN _ _ _ _ ((counterWords_length s).trans hN)

/-- Numbers that are in range stay as they are under the reduction of R64. -/
theorem map_mod_eq_self {vs : List Nat} {b : Nat} (h : ∀ v ∈ vs, v < b) : vs.map (· % b) = vs := by
  conv_rhs => rw [← List.map_id vs]
  exact List.map_congr_left fun v hv => Nat.mod_eq_of_lt (h v hv)

theorem two_pow_W_le (s : State) : 2 ^ s.phx.W ≤ 2 ^ 64 := by
  have hW : s.phx.W ≤ 64 := by have := phx_W_cases s; omega
  exact Nat.pow_le_pow_right (by decide) hW

theorem Quad.toNats_store {q : Quad} {vs : List Nat} (hlen : vs.length ≤ 4) (hvs : ∀ v ∈ vs, v < 2 ^ 64) :
    (q.store vs).toNats.take vs.length = vs := by
  match vs, hlen with
  | [], _ => rfl
  | [a], _ => simpa [Quad.toNats] using hvs
  | [a, b], _ => simpa [Quad.toNats] using hvs
  | [a, b, c], _ => simpa [Quad.toNats, Quad.store, deliver] using hvs
  | [a, b, c, d], _ => simpa [Quad.toNats] using hvs

theorem Pair.toNats_store {q : Pair} {vs : List Nat} (hlen : vs.length ≤ 2) (hvs : ∀ v ∈ vs, v < 2 ^ 64) :
    (q.store vs).toNats.take vs.length = vs := by
  match vs, hlen with
  | [], _ => rfl
  | [a], _ => simpa [Pair.toNats] using hvs
  | [a, b], _ => simpa [Pair.toNats] using hvs

theorem Quad.toNats_lt {q : Quad} {b : Nat} (h : ∀ i, (q.get i).toNat < b) : ∀ v ∈ q.toNats, v < b := by
  have h0 : q.w0.toNat < b := h 0
  simpa [Quad.toNats] using And.intro h0 ⟨h 1, h 2, h 3⟩

theorem Pair.toNats_lt {q : Pair} {b : Nat} (h : ∀ j, (q.get j).toNat < b) : ∀ v ∈ q.toNats, v < b := by
  have h0 : q.w0.toNat < b := h 0
  have h1 : q.w1.toNat < b := h 1
  simpa [Pair.toNats] using And.intro h0 h1

/-- Operands that hold another block's counter in range are that counter's words. -/
theorem counterOperand_eq_counterWords {d s : State} (hphx : d.phx = s.phx) (hop : d.op = s.ctr)
    (h : ∀ i, (s.ctr.get i).toNat < 2 ^ s.phx.W) : counterOperand d = counterWords s := by
  rw [counterOperand, hphx, hop]
  exact map_mod_eq_self fun v hv => Quad.toNats_lt h v (List.mem_of_mem_take hv)

/-- Operands that hold another block's key in range are that key's words. -/
theorem keyOperand_eq_keyWords {d s : State} (hphx : d.phx = s.phx) (h0 : d.op.w0 = s.key.w0)
    (h1 : d.op.w1 = s.key.w1) (h : ∀ j, (s.key.get j).toNat < 2 ^ s.phx.W) :
    keyOperand d = keyWords s := by
  have htake : d.op.toNats.take (s.phx.N / 2) = keyWords s := by
    rcases keyWords_cases s with ⟨hN, hk⟩ | ⟨hN, hk⟩ <;> simp [hk, hN, Quad.toNats, h0, h1]
  rw [keyOperand, hphx, htake]
  exact map_mod_eq_self fun v hv => Pair.toNats_lt h v (List.mem_of_mem_take hv)

/-- `N` counter words delivered to `CTR` are read back. -/
theorem counterWords_setCtr {s : State} {vs : List Nat} (hlen : vs.length = s.phx.N)
    (hvs : ∀ v ∈ vs, v < 2 ^ s.phx.W) : counterWords (s.setCtr vs) = vs := by
  have hN : vs.length ≤ 4 := by have := phx_N_cases s; omega
  have h := Quad.toNats_store (q := s.ctr) hN fun v hv => (hvs v hv).trans_le (two_pow_W_le s)
  rwa [hlen] at h

/-- `N/2` key words delivered to `KEY` are read back. -/
theorem keyWords_setKey {s : State} {vs : List Nat} (hlen : vs.length = s.phx.N / 2)
    (hvs : ∀ v ∈ vs, v < 2 ^ s.phx.W) : keyWords (s.setKey vs) = vs := by
  have hN : vs.length ≤ 2 := by have := phx_N_cases s; omega
  have h := Pair.toNats_store (q := s.key) hN fun v hv => (hvs v hv).trans_le (two_pow_W_le s)
  rwa [hlen] at h

/-- `PHX.SETCTR` leaves its operand words in the counter (R137). -/
theorem counterWords_phxSetCtr (s : State) :
    counterWords (s.setCtr (counterOperand s)).markCtr = counterOperand s :=
  counterWords_setCtr (counterOperand_length s) (counterOperand_lt s)

/-- `PHX.SETKEY` leaves its operand words in the key (R136). -/
theorem keyWords_phxSetKey (s : State) :
    keyWords (s.setKey (keyOperand s)).markKey = keyOperand s :=
  keyWords_setKey (keyOperand_length s) (keyOperand_lt s)

end Sys2Proof.Machine
end

section
/-! SUPPORT. The invariant of 10_state.md R14 under each state update, then under each command and each step. The
updates that touch few fields are proved as the invariant before with the fields they touch replaced. -/

namespace Sys2Proof.Machine

namespace State.Inv

variable {s t : State}

theorem resetOf (inst : Instance) : (State.resetOf inst).Inv where
  xInRange := by
    have hm := lcg_m_bounds (State.resetOf inst)
    exact (Nat.zero_lt_two).trans_le hm.1
  ctrInRange := by simp
  keyInRange := by simp
  ctrUnused _ := ⟨rfl, rfl⟩
  keyUnused _ := rfl
  outUnused _ := ⟨rfl, rfl⟩
  xUnseeded _ := rfl
  ctrUnset _ := rfl
  keyUnset _ := rfl
  errCause := ⟨fun _ => rfl, fun _ => rfl⟩
  finfoClear _ := rfl
  illegalRecord := nofun
  badRegRecord := nofun
  uninitRecord := nofun

/-- The host's two lists are outside the invariant. -/
theorem resetBlock (s : State) : (Machine.resetBlock s).Inv := { Inv.resetOf s.inst with }

theorem setPending (h : s.Inv) (rest : List Transaction) : (s.setPending rest).Inv := { h with }

theorem answer (h : s.Inv) (v : Word) : (s.answer v).Inv := { h with }

/-- The operand registers are outside the invariant. -/
theorem setOp (h : s.Inv) (i : Fin 4) (v : Word) : (s.setOp i v).Inv := { h with }

/-- With no fault recorded there is no `UNINIT` record that a flag could contradict. -/
theorem cause_ne_uninit (h : s.Inv) (herr : s.status.err = false) : s.status.cause ≠ .uninit := by
  simp [h.errCause.1 herr]

theorem markX (h : s.Inv) (herr : s.status.err = false) : s.markX.Inv :=
  { h with
    xUnseeded := nofun
    uninitRecord := fun hc => absurd hc (h.cause_ne_uninit herr) }

theorem markKey (h : s.Inv) (herr : s.status.err = false) : s.markKey.Inv :=
  { h with
    keyUnset := nofun
    uninitRecord := fun hc => absurd hc (h.cause_ne_uninit herr) }

theorem markCtr (h : s.Inv) (herr : s.status.err = false) : s.markCtr.Inv :=
  { h with
    ctrUnset := nofun
    uninitRecord := fun hc => absurd hc (h.cause_ne_uninit herr) }

/-- A value reduced modulo `m` may go to a valid `X`. -/
theorem setX_mod (h : s.Inv) (hxv : s.status.xv = true) (v : Nat) : (s.setX (v % s.lcg.m)).Inv :=
  { h with
    xInRange := by
      have hv : v % s.lcg.m < s.lcg.m := Nat.mod_lt _ (by have := lcg_m_bounds s; omega)
      simpa using (Nat.mod_le _ _).trans_lt hv
    xUnseeded := fun hx => absurd hx (by simp [hxv]) }

/-- `N` words below `2^W` may go to a valid `CTR`. -/
theorem setCtr (h : s.Inv) (hcv : s.status.cv = true) {vs : List Nat} (hlen : vs.length = s.phx.N)
    (hvs : ∀ v ∈ vs, v < 2 ^ s.phx.W) : (s.setCtr vs).Inv :=
  { h with
    ctrInRange := fun i => by
      simpa [Quad.get_store] using deliver_toNat_lt hvs i (h.ctrInRange i)
    ctrUnused := fun hN => by
      have hkept := Quad.store_upper (hlen.trans hN).le s.ctr
      exact ⟨hkept.1.trans (h.ctrUnused hN).1, hkept.2.trans (h.ctrUnused hN).2⟩
    ctrUnset := fun hc => absurd hc (by simp [hcv]) }

/-- `N/2` words below `2^W` may go to a valid `KEY`. -/
theorem setKey (h : s.Inv) (hkv : s.status.kv = true) {vs : List Nat} (hlen : vs.length = s.phx.N / 2)
    (hvs : ∀ v ∈ vs, v < 2 ^ s.phx.W) : (s.setKey vs).Inv :=
  { h with
    keyInRange := fun j => by
      simpa [Pair.get_store] using deliver_toNat_lt hvs j (h.keyInRange j)
    keyUnused := fun hN => by
      have hone : vs.length ≤ 1 := by
        change s.phx.N = 2 at hN
        omega
      exact (Pair.store_upper hone s.key).trans (h.keyUnused hN)
    keyUnset := fun hk => absurd hk (by simp [hkv]) }

/-- A result of at most two words on a 2-word variant may go to `OUT`. -/
theorem setOut (h : s.Inv) {vs : List Nat} (hlen : s.phx.N = 2 → vs.length ≤ 2) : (s.setOut vs).Inv :=
  { h with
    outUnused := fun hN => by
      have hkept := Quad.store_upper (hlen hN) s.out
      exact ⟨hkept.1.trans (h.outUnused hN).1, hkept.2.trans (h.outUnused hN).2⟩ }

theorem raise_illegalCmd (h : s.Inv) {w : Word} (hw : ∃ e, decode w = .error e) :
    (raise .illegalCmd w s).Inv :=
  { h with
    errCause := by simp
    finfoClear := nofun
    illegalRecord := fun _ => hw
    badRegRecord := nofun
    uninitRecord := nofun }

theorem raise_badReg (h : s.Inv) {info : Word}
    (hinfo : ∃ idx : RegIndex, (info.toNat = idx.toNat ∧ readableReg idx = none) ∨
      (info.toNat = 256 + idx.toNat ∧ idx.toNat ≠ 3 ∧ (idx.toNat < 4 ∨ 7 < idx.toNat))) :
    (raise .badReg info s).Inv :=
  { h with
    errCause := by simp
    finfoClear := nofun
    illegalRecord := nofun
    badRegRecord := fun _ => hinfo
    uninitRecord := nofun }

theorem raise_uninit (h : s.Inv) {i : Instr} (hi : ready i s.status = false) :
    (raise .uninit (encode i) s).Inv :=
  { h with
    errCause := by simp
    finfoClear := nofun
    illegalRecord := nofun
    badRegRecord := nofun
    uninitRecord := fun _ => ⟨i, rfl, by cases i <;> exact hi⟩ }

/-- Every command keeps the invariant of a block that is not faulted. An initialising command is its flag set first,
then its register written, so that the register is written while its flag is 1. -/
theorem exec (h : s.Inv) (herr : s.status.err = false) {i : Instr} (hexec : exec i s = .next t) :
    t.Inv := by
  rcases exec_cases hexec with ⟨hr, rfl⟩ | ⟨rfl, rfl⟩ | ⟨rfl, hx, rfl⟩ | ⟨rfl, hx, rfl⟩ | ⟨rfl, rfl⟩ |
    ⟨rfl, rfl⟩ | ⟨rfl, hc, hk, rfl⟩ | ⟨rfl, hc, rfl⟩ | ⟨rfl, hc, hk, rfl⟩
  · exact h.raise_uninit hr
  · exact (h.markX herr).setX_mod rfl _
  · exact (h.setX_mod hx _).setOut fun _ => by simp
  · exact h.setX_mod hx _
  · exact (h.markKey herr).setKey rfl (keyOperand_length s) (keyOperand_lt s)
  · exact (h.markCtr herr).setCtr rfl (counterOperand_length s) (counterOperand_lt s)
  · exact (h.setOut fun hN => (generate_length_two hN).le).setCtr hc (ctrAdd_length _ _ _) (ctrAdd_lt _ _ _)
  · exact h.setCtr hc (ctrAdd_length _ _ _) (ctrAdd_lt _ _ _)
  · exact h.setOut fun hN => (generate_length_two hN).le

/-- Every transaction keeps the invariant. -/
theorem performs (h : s.Inv) {tr : Transaction} (hperf : Performs s tr t) : t.Inv := by
  cases hperf with
  | reset => exact .resetBlock s
  | read idx v => exact h.answer v
  | badRead idx hmap =>
    exact (h.raise_badReg ⟨idx, .inl ⟨by simp; omega, hmap⟩⟩).answer 0
  | ignored => exact h
  | operand idx v i => exact h.setOp i v
  | badWrite idx v _ hcmd hop =>
    exact h.raise_badReg ⟨idx, .inr ⟨by simp; omega, hcmd, hop⟩⟩
  | illegal w e _ hdec => exact h.raise_illegalCmd ⟨e, hdec⟩
  | command i t herr hexec => exact h.exec herr hexec

end State.Inv

end Sys2Proof.Machine
end

section
/-! The statements of the family 10_state.md. -/

namespace Sys2Proof.Machine

/-- Settles O31: an idle step keeps the state, and every transaction keeps the invariant. -/
theorem invariantKeptByEveryStep : Obligations.InvariantKeptByEveryStep := by
  intro s t h hstep
  rcases step_cases hstep with ⟨_, rfl⟩ | ⟨tr, rest, _, hperf⟩
  · exact h
  · exact (h.setPending rest).performs hperf

/-- Settles O18: the word for each pair of variants, and no step changes the pair. -/
theorem configIsTheInstanceConstant : Obligations.ConfigIsTheInstanceConstant := by
  refine ⟨?_, fun s t h => by rw [step_inst h]⟩
  rintro l p ⟨lcg, phx⟩ hl hp
  have hlcg : lcgCode lcg = l := by
    rcases hl with ⟨rfl, rfl⟩ | ⟨rfl, rfl⟩ <;> rfl
  have hphx : philoxCode phx = p := by
    rcases hp with ⟨rfl, rfl⟩ | ⟨rfl, rfl⟩ | ⟨rfl, rfl⟩ | ⟨rfl, rfl⟩ <;> rfl
  subst hlcg hphx
  cases lcg <;> cases phx <;> decide

/-- Settles O29: the port leaves `X`, `CTR`, `KEY` and `OUT` alone, and the frame of a command names its writers. -/
theorem registersChangeOnlyByTheirWriters : Obligations.RegistersChangeOnlyByTheirWriters := by
  intro s t h
  have hx : KeptByPort State.x := {}
  have hctr : KeptByPort State.ctr := {}
  have hkey : KeptByPort State.key := {}
  have hout : KeptByPort State.out := {}
  refine ⟨hx.changed_by (fun _ _ _ he => (exec_frame he).x) h,
    hctr.changed_by (fun _ _ _ he => (exec_frame he).ctr) h, fun hne => ?_, op_changed_by h,
    hout.changed_by (fun _ _ _ he => (exec_frame he).out) h⟩
  simpa using hkey.changed_by (fun _ _ _ he => (exec_frame he).key) h hne

/-- Settles O30: every case but `Reset` sets flags only, and the record is written with `ERR = 0` only. -/
theorem onlyResetClearsStatus : Obligations.OnlyResetClearsStatus := by
  intro s t h hreset
  rcases step_cases h with ⟨_, rfl⟩ | ⟨tr, rest, hpend, hperf⟩
  · exact ⟨id, id, id, fun _ => ⟨rfl, rfl⟩⟩
  cases hperf with
  | reset => exact absurd hpend (hreset rest)
  | read | ignored | operand => exact ⟨id, id, id, fun _ => ⟨rfl, rfl⟩⟩
  | badRead _ _ herr | badWrite _ _ herr | illegal _ _ herr =>
    exact ⟨id, id, id, fun he => absurd he (by simpa using herr)⟩
  | command i t herr hexec =>
    have hframe := exec_frame hexec
    exact ⟨hframe.xv, hframe.kv, hframe.cv, fun he => absurd he (by simpa using herr)⟩

/-- Settles O52: words in range pass the operand's reduction unchanged and are read back from the register. -/
theorem copiedStateArrivesUnchanged : Obligations.CopiedStateArrivesUnchanged := by
  intro s d hs hinst _
  have hphx : d.phx = s.phx := by simp only [State.phx, hinst]
  have hlcg : d.lcg = s.lcg := by simp only [State.lcg, hinst]
  refine ⟨⟨_, exec_lcgSeed _, ?_⟩, ⟨_, exec_phxSetCtr _, ?_⟩, ⟨_, exec_phxSetKey _, ?_⟩⟩
  · have hmod : s.x.toNat % d.lcg.m = s.x.toNat := Nat.mod_eq_of_lt (hlcg ▸ hs.xInRange)
    change BitVec.ofNat 64 (s.x.toNat % d.lcg.m) = s.x
    rw [hmod, BitVec.ofNat_toNat, BitVec.setWidth_eq]
  · exact (counterWords_phxSetCtr _).trans (counterOperand_eq_counterWords hphx rfl hs.ctrInRange)
  · exact (keyWords_phxSetKey _).trans (keyOperand_eq_keyWords hphx rfl rfl hs.keyInRange)

/-- Settles O16: `Reset` answers `resetBlock`, every register of which is 0. -/
theorem resetClearsEveryRegister : Obligations.ResetClearsEveryRegister := by
  intro s
  refine ⟨resetBlock s, perform_reset s, ?_⟩
  simp [Status.zero, statusWord, causeCode]

/-- The registers of the reset state, but for the constant (R25). -/
theorem readReg_resetOf {r : Reg} (hr : r ≠ .config) (inst : Instance) :
    readReg r (State.resetOf inst) = 0 := by
  cases r with
  | config => exact absurd rfl hr
  | op i | out i | ctr i => exact Quad.get_zero i
  | key j => exact Pair.get_zero j
  | status | finfo | cmd | x => rfl

/-- Settles O17: a permitted read answers the register, and `readReg_resetOf` gives its value. -/
theorem resetStateReadsZero : Obligations.ResetStateReadsZero := by
  intro inst
  refine ⟨fun idx r hidx hr => ?_, rfl⟩
  simp only [regRead, hidx, readReg_resetOf hr]

/-- Settles O19: each flag is a binary digit of the number of `statusWord_toNat`, the cause is the rest. -/
theorem statusWordHasTheListedLayout : Obligations.StatusWordHasTheListedLayout := by
  intro t
  have hword := statusWord_toNat t
  have hx := t.xv.toNat_le
  have hk := t.kv.toNat_le
  have hc := t.cv.toNat_le
  have he := t.err.toNat_le
  refine ⟨getLsbD_eq_of_toNat ?_, getLsbD_eq_of_toNat ?_, getLsbD_eq_of_toNat ?_, getLsbD_eq_of_toNat ?_, ?_,
    causeCode_le t.cause⟩ <;> omega

end Sys2Proof.Machine
end

section
/-! SUPPORT. The statements on the encoding: on the eight command words `decode` and `encode` are inverse to each
other, and every other word is illegal (30_encoding.md R62, R63, R65). -/

namespace Sys2Proof

/-- The encoding statement of `Laws/PerInstr.lean` holds of every command. -/
theorem encoding_statement (i : Instr) : Laws.Encoding.Statement i := by
  cases i with
  | lcgSeed => exact Laws.Encoding.lcgSeed
  | lcgNext => exact Laws.Encoding.lcgNext
  | lcgDiscard => exact Laws.Encoding.lcgDiscard
  | phxSetKey => exact Laws.Encoding.phxSetKey
  | phxSetCtr => exact Laws.Encoding.phxSetCtr
  | phxNext => exact Laws.Encoding.phxNext
  | phxJump => exact Laws.Encoding.phxJump
  | phxGen => exact Laws.Encoding.phxGen

/-- Every command's word decodes to the command (R65). -/
theorem decode_encode (i : Instr) : decode (encode i) = .ok i := by
  obtain ⟨_, hdecode, _⟩ := encoding_statement i
  exact hdecode

/-- `decode` recovers the command from its word, so no two commands share a word. -/
theorem encode_injective : Function.Injective encode := by
  intro i j h
  have hok : (.ok i : Except Illegal Instr) = .ok j := by rw [← decode_encode i, h, decode_encode j]
  exact Except.ok.inj hok

/-- Decoding to a command is the same as being its word. -/
theorem decode_eq_ok_iff {w : Word} {i : Instr} : decode w = .ok i ↔ w = encode i :=
  ⟨Machine.eq_encode_of_decode, fun h => h ▸ decode_encode i⟩

/-- A word is illegal exactly when it is the word of no command (R63). -/
theorem exists_decode_eq_error_iff {w : Word} : (∃ e, decode w = .error e) ↔ ∀ i, w ≠ encode i := by
  simp only [ne_eq, ← decode_eq_ok_iff]
  cases decode w with
  | ok i => exact ⟨fun ⟨_, h⟩ => (nomatch h), fun h => absurd rfl (h i)⟩
  | error e => exact ⟨fun _ _ h => (nomatch h), fun _ => ⟨e, rfl⟩⟩

/-- The eight words of R62 are the words of the eight commands. -/
theorem mem_commandWords_iff {w : Word} :
    w ∈ ([0x1, 0x3, 0x4, 0x9, 0xA, 0xB, 0xC, 0xD] : List Word) ↔ ∃ i, w = encode i := by
  constructor
  · intro hw
    simp only [List.mem_cons, List.not_mem_nil, or_false] at hw
    rcases hw with h | h | h | h | h | h | h | h
    exacts [⟨.lcgSeed, h⟩, ⟨.lcgNext, h⟩, ⟨.lcgDiscard, h⟩, ⟨.phxSetKey, h⟩, ⟨.phxSetCtr, h⟩, ⟨.phxNext, h⟩,
      ⟨.phxJump, h⟩, ⟨.phxGen, h⟩]
  · rintro ⟨i, rfl⟩
    cases i <;> simp [encode]

/-- Settles O1: `decode_encode` is one direction, `eq_encode_of_decode` the other. -/
theorem encodeAndDecodeAreInverse : Obligations.EncodeAndDecodeAreInverse :=
  ⟨fun i _ => decode_encode i, fun _ _ => Machine.eq_encode_of_decode, fun _ _ h => encode_injective h⟩

/-- Settles O2: `decode_eq_ok_iff` for each command, and the illegal words are the words of none. -/
theorem decodeAcceptsExactlyTheEightWords : Obligations.DecodeAcceptsExactlyTheEightWords := by
  intro w
  refine ⟨decode_eq_ok_iff, decode_eq_ok_iff, decode_eq_ok_iff, decode_eq_ok_iff, decode_eq_ok_iff,
    decode_eq_ok_iff, decode_eq_ok_iff, decode_eq_ok_iff, ?_⟩
  rw [exists_decode_eq_error_iff, mem_commandWords_iff, not_exists]

end Sys2Proof
end

section
/-! SUPPORT. The frame of the commands (40_common_interface.md R86), the reads and the operand writes of the port. -/

namespace Sys2Proof.Machine

/-! ### The readable indices and the operand writes -/

/-- The readable rows of the register map (R41). -/
def readableRows : List (RegIndex × Reg) :=
  [(0, .config), (1, .status), (2, .finfo), (4, .op 0), (5, .op 1), (6, .op 2), (7, .op 3),
    (8, .out 0), (9, .out 1), (10, .out 2), (11, .out 3), (12, .x),
    (16, .ctr 0), (17, .ctr 1), (18, .ctr 2), (19, .ctr 3), (20, .key 0), (21, .key 1)]

theorem readableReg_of_mem_readableRows :
    ∀ row ∈ readableRows, readableReg row.1 = some row.2 := by decide

theorem regRead_of_readableReg {idx : RegIndex} {r : Reg} (h : readableReg idx = some r) (s : State) :
    regRead idx s = (readReg r s, s) := by
  simp only [regRead, h]

theorem regWrite_operand {idx : RegIndex} {i : Fin 4} {s : State} (herr : s.status.err = false)
    (hidx : idx.toNat = 4 + i.val) (v : Word) : regWrite idx v s = .next (s.setOp i v) := by
  have hreg : regAt idx = some (.op i) := (regAt_eq_op idx i).2 hidx
  simp [regWrite, herr, hreg]

/-! ### The frame of every command -/

/-- What `ExecFrame` leaves open of R86: the host's lists, each valid flag with the one command that may set it, and
the record of the fault. -/
structure StatusFrame (i : Instr) (s t : State) : Prop where
  pending : t.pending = s.pending
  returned : t.returned = s.returned
  xv : t.status.xv = s.status.xv ∨ (i = .lcgSeed ∧ t.status.xv = true)
  kv : t.status.kv = s.status.kv ∨ (i = .phxSetKey ∧ t.status.kv = true)
  cv : t.status.cv = s.status.cv ∨ (i = .phxSetCtr ∧ t.status.cv = true)
  record : (t.status.err = s.status.err ∧ t.status.cause = s.status.cause ∧ t.finfo = s.finfo) ∨
    (ready i s.status = false ∧ t.status.err = true ∧ t.status.cause = .uninit ∧ t.finfo = encode i)

theorem exec_statusFrame {i : Instr} {s t : State} (h : exec i s = .next t) : StatusFrame i s t := by
  rcases exec_cases h with ⟨hready, rfl⟩ | ⟨rfl, rfl⟩ | ⟨rfl, _, rfl⟩ | ⟨rfl, _, rfl⟩ | ⟨rfl, rfl⟩ |
    ⟨rfl, rfl⟩ | ⟨rfl, _, _, rfl⟩ | ⟨rfl, _, rfl⟩ | ⟨rfl, _, _, rfl⟩
  case inl => exact ⟨rfl, rfl, .inl rfl, .inl rfl, .inl rfl, .inr ⟨hready, rfl, rfl, rfl⟩⟩
  all_goals constructor <;> simp

/-- No LCG command writes the Philox state. -/
theorem exec_lcg_keeps_philox {i : Instr} {s t : State} (h : exec i s = .next t) (heng : engineOf i = .lcg) :
    t.ctr = s.ctr ∧ t.key = s.key ∧ t.status.kv = s.status.kv ∧ t.status.cv = s.status.cv := by
  have hframe := exec_frame h
  have hstatus := exec_statusFrame h
  cases i with
  | lcgSeed | lcgNext | lcgDiscard =>
    exact ⟨hframe.ctr.resolve_right (by decide), hframe.key.resolve_right (by decide),
      hstatus.kv.resolve_right (by simp), hstatus.cv.resolve_right (by simp)⟩
  | phxSetKey | phxSetCtr | phxNext | phxJump | phxGen => cases heng

/-- No Philox command writes the LCG state. -/
theorem exec_philox_keeps_lcg {i : Instr} {s t : State} (h : exec i s = .next t)
    (heng : engineOf i = .philox) : t.x = s.x ∧ t.status.xv = s.status.xv := by
  cases i with
  | lcgSeed | lcgNext | lcgDiscard => cases heng
  | phxSetKey | phxSetCtr | phxNext | phxJump | phxGen =>
    exact ⟨(exec_frame h).x.resolve_right (by decide), (exec_statusFrame h).xv.resolve_right (by simp)⟩

/-- `PHX.GEN` without a fault is a write of `OUT` alone. -/
theorem exec_phxGen_frame {s t : State} (h : exec .phxGen s = .next t) (herr : t.status.err = false) :
    t = { s with out := t.out } := by
  cases hready : ready .phxGen s.status with
  | false =>
    rw [exec_unready hready] at h
    cases h
    simp at herr
  | true =>
    obtain ⟨hcv, hkv⟩ : s.status.cv = true ∧ s.status.kv = true := by simpa [ready] using hready
    rw [exec_phxGen hcv hkv] at h
    cases h
    rfl

end Sys2Proof.Machine
end

section
/-! SUPPORT. The counter as one number (42_philox.md R135): its words are the digits in base `2^W`, so `ctr_add` adds on
the number and composes, and adding 0 gives the words back. -/

namespace Sys2Proof.Machine

theorem lane_eq_getElem {vs : List Nat} {i : Nat} (hi : i < vs.length) : lane vs i = vs[i] := by
  simp [lane, hi]

/-- The low `n` digits of a number add up to its remainder. -/
theorem sum_digits_eq_mod (v b n : Nat) :
    ((List.range n).map fun i => v / b ^ i % b * b ^ i).sum = v % b ^ n := by
  induction n with
  | zero => simp [Nat.mod_one]
  | succ n ih => simp [List.range_succ, ih, Nat.mod_pow_succ, Nat.mul_comm (v / b ^ n % b)]

/-- A digit below position `n` is read off the remainder modulo `b^n` as well. -/
theorem mod_pow_div_pow_mod (v b : Nat) {i n : Nat} (hi : i < n) :
    v % b ^ n / b ^ i % b = v / b ^ i % b := by
  obtain ⟨m, rfl⟩ : ∃ m, n = i + (m + 1) := ⟨n - i - 1, by omega⟩
  rw [pow_add, Nat.mod_mul_right_div_self, Nat.mod_mod_of_dvd _ (Dvd.intro_left _ (pow_succ b m).symm)]

/-- In a number made of digits in range, each digit stands at its place. -/
theorem ofDigits_div_pow_mod {b : Nat} {vs : List Nat} (hvs : ∀ v ∈ vs, v < b) {i : Nat}
    (hi : i < vs.length) : Nat.ofDigits b vs / b ^ i % b = vs[i] := by
  induction vs generalizing i with
  | nil => simp at hi
  | cons d ds ih =>
    have hd : d < b := hvs d List.mem_cons_self
    rw [Nat.ofDigits_cons]
    cases i with
    | zero => simp [Nat.mod_eq_of_lt hd]
    | succ i =>
      have hshift : (d + b * Nat.ofDigits b ds) / b = Nat.ofDigits b ds := by
        rw [Nat.add_mul_div_left _ _ (by omega), Nat.div_eq_of_lt hd, Nat.zero_add]
      rw [pow_succ', ← Nat.div_div_eq_div_mul, hshift]
      exact ih (fun v hv => hvs v (List.mem_cons_of_mem _ hv)) (by simpa using hi)

theorem counterValue_eq_ofDigits {p : PhiloxParams} {ctr : List Nat} (hlen : ctr.length = p.N) :
    counterValue p ctr = Nat.ofDigits (2 ^ p.W) ctr := by
  rw [Nat.ofDigits_eq_sum_mapIdx, counterValue]
  congr 1
  refine List.ext_getElem (by simp [hlen]) fun i _ hi => ?_
  simp only [List.length_mapIdx] at hi
  simp [lane_eq_getElem hi, pow_mul]

/-- The words of `ctr_add` are digits of the sum; the modulus of R135 cuts above the last one. -/
theorem ctrAdd_getElem (p : PhiloxParams) (ctr : List Nat) (delta : Nat) {i : Nat}
    (hi : i < (ctrAdd p ctr delta).length) :
    (ctrAdd p ctr delta)[i] = (counterValue p ctr + delta) / (2 ^ p.W) ^ i % 2 ^ p.W := by
  rw [ctrAdd_length] at hi
  rw [← mod_pow_div_pow_mod _ _ hi]
  simp [ctrAdd, ← pow_mul, Nat.mul_comm p.W p.N]

/-- `ctr_add` is addition modulo `2^(N*W)` on the counter's number. -/
theorem counterValue_ctrAdd (p : PhiloxParams) (ctr : List Nat) (delta : Nat) :
    counterValue p (ctrAdd p ctr delta) = (counterValue p ctr + delta) % 2 ^ (p.N * p.W) := by
  rw [Nat.mul_comm p.N p.W, pow_mul, ← sum_digits_eq_mod, counterValue]
  congr 1
  refine List.map_congr_left fun i hi => ?_
  have hi' : i < (ctrAdd p ctr delta).length := by simpa [ctrAdd_length] using hi
  rw [lane_eq_getElem hi', ctrAdd_getElem, pow_mul]

/-- Two additions to the counter are one of the sum (R142). -/
theorem ctrAdd_ctrAdd (p : PhiloxParams) (ctr : List Nat) (x y : Nat) :
    ctrAdd p (ctrAdd p ctr x) y = ctrAdd p ctr (x + y) := by
  rw [ctrAdd, counterValue_ctrAdd, Nat.mod_add_mod, Nat.add_assoc, ← ctrAdd]

/-- Adding 0 gives a counter of `N` words in range back. -/
theorem ctrAdd_zero {p : PhiloxParams} {ctr : List Nat} (hlen : ctr.length = p.N)
    (hctr : ∀ v ∈ ctr, v < 2 ^ p.W) : ctrAdd p ctr 0 = ctr := by
  refine List.ext_getElem (by rw [ctrAdd_length, hlen]) fun i hi hi' => ?_
  rw [ctrAdd_getElem, Nat.add_zero, counterValue_eq_ofDigits hlen, ofDigits_div_pow_mod hctr hi']

end Sys2Proof.Machine
end

section
/-! SUPPORT. How many words `generate` answers (42_philox.md R134), and that they fit the registers they go to: with
multipliers below `2^W`, any bound `2^b` with `b` at least `W` on the counter and key words is kept by every round. -/

namespace Sys2Proof.Machine

theorem philoxRound_length {p : PhiloxParams} (hN : p.N = 2 ∨ p.N = 4) (c k : List Nat) :
    (philoxRound p c k).length = p.N := by
  rcases hN with hN | hN <;> simp [philoxRound, hN, round2, round4]

theorem generateLoop_length {p : PhiloxParams} (hN : p.N = 2 ∨ p.N = 4) (left r : Nat) {c : List Nat}
    (k : List Nat) (hc : c.length = p.N) : (generateLoop p left r c k).length = p.N := by
  induction left generalizing r c k with
  | zero => exact hc
  | succ left ih => exact ih _ _ (philoxRound_length hN _ _)

theorem lane_lt {vs : List Nat} {b : Nat} (hb : 0 < b) (hvs : ∀ v ∈ vs, v < b) (i : Nat) :
    lane vs i < b := by
  by_cases hi : i < vs.length
  · rw [lane_eq_getElem hi]
    exact hvs _ (List.getElem_mem hi)
  · simpa [lane, List.getElem?_eq_none (Nat.le_of_not_lt hi)] using hb

section Range

variable {p : PhiloxParams} {b : Nat}

theorem mulhilo_fst_lt {u v : Nat} (hu : u < 2 ^ b) (hv : v < 2 ^ p.W) : (mulhilo p.W u v).1 < 2 ^ b := by
  have hle : u * v / 2 ^ p.W ≤ u := by
    apply Nat.div_le_of_le_mul
    rw [Nat.mul_comm]
    exact Nat.mul_le_mul_right u hv.le
  exact hle.trans_lt hu

theorem mulhilo_snd_lt (hW : p.W ≤ b) (u v : Nat) : (mulhilo p.W u v).2 < 2 ^ b :=
  (Nat.mod_lt _ (Nat.two_pow_pos _)).trans_le (Nat.pow_le_pow_right (by decide) hW)

theorem bumpKey_lt (hW : p.W ≤ b) (k : List Nat) : ∀ v ∈ bumpKey p k, v < 2 ^ b := by
  intro v hv
  obtain ⟨j, _, rfl⟩ := List.mem_map.1 hv
  exact (Nat.mod_lt _ (Nat.two_pow_pos _)).trans_le (Nat.pow_le_pow_right (by decide) hW)

theorem philoxRound_lt (hW : p.W ≤ b) (hM : ∀ m ∈ p.M, m < 2 ^ p.W) {c k : List Nat}
    (hc : ∀ v ∈ c, v < 2 ^ b) (hk : ∀ v ∈ k, v < 2 ^ b) : ∀ v ∈ philoxRound p c k, v < 2 ^ b := by
  have hlane {vs : List Nat} (hvs : ∀ v ∈ vs, v < 2 ^ b) (i : Nat) := lane_lt (Nat.two_pow_pos b) hvs i
  have hhi (i j : Nat) : (mulhilo p.W (lane c i) (lane p.M j)).1 < 2 ^ b :=
    mulhilo_fst_lt (hlane hc i) (lane_lt (Nat.two_pow_pos _) hM j)
  have hlo (i j : Nat) : (mulhilo p.W (lane c i) (lane p.M j)).2 < 2 ^ b := mulhilo_snd_lt hW _ _
  have hxor (i j l n : Nat) :
      (mulhilo p.W (lane c i) (lane p.M j)).1 ^^^ lane k l ^^^ lane c n < 2 ^ b :=
    Nat.xor_lt_two_pow (Nat.xor_lt_two_pow (hhi i j) (hlane hk l)) (hlane hc n)
  unfold philoxRound
  split
  · simp only [round2, List.forall_mem_cons]
    exact ⟨hxor _ _ _ _, hlo _ _, by simp⟩
  · simp only [round4, List.forall_mem_cons]
    exact ⟨hxor _ _ _ _, hlo _ _, hxor _ _ _ _, hlo _ _, by simp⟩

theorem generateLoop_lt (hW : p.W ≤ b) (hM : ∀ m ∈ p.M, m < 2 ^ p.W) (left r : Nat) {c k : List Nat}
    (hc : ∀ v ∈ c, v < 2 ^ b) (hk : ∀ v ∈ k, v < 2 ^ b) : ∀ v ∈ generateLoop p left r c k, v < 2 ^ b := by
  induction left generalizing r c k with
  | zero => exact hc
  | succ left ih =>
    have hk' : ∀ v ∈ (if r > 0 then bumpKey p k else k), v < 2 ^ b := by
      split
      · exact bumpKey_lt hW k
      · exact hk
    exact ih (r + 1) (philoxRound_lt hW hM hc hk') hk'

end Range

theorem phx_M_lt (s : State) : ∀ m ∈ s.phx.M, m < 2 ^ s.phx.W := by
  have h := philoxParams_wf s.inst.phx
  simp only [PhiloxParams.wf, Bool.and_eq_true, List.all_eq_true, decide_eq_true_eq] at h
  obtain ⟨⟨_, hM⟩, _⟩ := h
  exact hM

theorem generate_length (s : State) :
    (generate s.phx (counterWords s) (keyWords s)).length = s.phx.N :=
  generateLoop_length (phx_N_cases s) _ _ _ (counterWords_length s)

/-- No word that `generate` answers is cut by the register it goes to (R138). -/
theorem generate_lt (s : State) : ∀ v ∈ generate s.phx (counterWords s) (keyWords s), v < 2 ^ 64 := by
  have hW : s.phx.W ≤ 64 := by have := phx_W_cases s; omega
  refine generateLoop_lt hW (phx_M_lt s) _ _ ?_ ?_ <;> intro v hv
  · exact Quad.toNats_lt (fun i => (s.ctr.get i).isLt) v (List.mem_of_mem_take hv)
  · exact Pair.toNats_lt (fun j => (s.key.get j).isLt) v (List.mem_of_mem_take hv)

end Sys2Proof.Machine
end

section
/-! SUPPORT. The output stream of an engine (40_common_interface.md R85) over command writes: one draw puts its words in
front of the stream of the rest. -/

namespace Sys2Proof.Machine

theorem perform_encode {s : State} (i : Instr) (herr : s.status.err = false) :
    perform (commandWrite (encode i)) s = exec i s := by
  rw [perform_commandWrite _ herr, execute, decode_encode]

theorem emits_encode {e : Engine} {s : State} {i : Instr} (heng : engineOf i = e) (hemit : isEmitting i = true)
    (herr : s.status.err = false) (hready : ready i s.status = true) :
    emits e (commandWrite (encode i)) s = true := by
  have hcmd : regAt 3#8 = some .cmd := (regAt_eq_cmd 3).2 rfl
  simp [emits, commandWrite, hcmd, decode_encode, heng, hemit, herr, hready]

theorem outputStream_draw {e : Engine} {s t : State} {i : Instr} (heng : engineOf i = e)
    (hemit : isEmitting i = true) (herr : s.status.err = false) (hready : ready i s.status = true)
    (hexec : exec i s = .next t) (rest : List Transaction) :
    outputStream e (commandWrite (encode i) :: rest) s = drawWords e t ++ outputStream e rest t := by
  rw [outputStream, perform_encode i herr, hexec, emits_encode heng hemit herr hready]
  rfl

/-- `N` words delivered to `OUT` are the words of the draw, in lane order (R144). -/
theorem drawWords_philox_setOut {s : State} {vs : List Nat} (hlen : vs.length = s.phx.N)
    (hvs : ∀ v ∈ vs, v < 2 ^ 64) : (drawWords .philox (s.setOut vs)).map BitVec.toNat = vs := by
  have hN : vs.length ≤ 4 := by have := phx_N_cases s; omega
  have hstore := Quad.toNats_store (q := s.out) hN hvs
  rw [hlen] at hstore
  simpa [drawWords, Quad.toNats, List.map_take] using hstore

/-- Stepping first and iterating then is one more iteration. -/
theorem lcgIter_lcgF (p : LcgParams) (n x : Nat) : lcgIter p n (lcgF p x) = lcgIter p (n + 1) x := by
  induction n with
  | zero => rfl
  | succ n ih => exact congrArg (lcgF p) ih

/-- The LCG state fits its register. -/
theorem lcgF_lt (s : State) (x : Nat) : lcgF s.lcg x < 2 ^ 64 := by
  obtain ⟨hlow, hhigh⟩ := lcg_m_bounds s
  exact (Nat.mod_lt _ (by omega)).trans_le hhigh

/-- One `LCG.NEXT` as its stream sees it (R102). -/
theorem exec_lcgNext_draw {s : State} (hxv : s.status.xv = true) :
    ∃ t, exec .lcgNext s = .next t ∧ t.status = s.status ∧ t.lcg = s.lcg ∧
      t.x.toNat = lcgF s.lcg s.x.toNat ∧
      (drawWords .lcg t).map BitVec.toNat = [lcgF s.lcg s.x.toNat] := by
  have hx : (BitVec.ofNat 64 (lcgF s.lcg s.x.toNat)).toNat = lcgF s.lcg s.x.toNat := by
    rw [BitVec.toNat_ofNat, Nat.mod_eq_of_lt (lcgF_lt s _)]
  exact ⟨_, exec_lcgNext hxv, rfl, rfl, hx, congrArg (fun v => [v]) hx⟩

/-- One `PHX.NEXT` as its stream sees it (R139): the words of the counter before the increment. -/
theorem exec_phxNext_draw {s : State} (hcv : s.status.cv = true) (hkv : s.status.kv = true) :
    ∃ t, exec .phxNext s = .next t ∧ t.status = s.status ∧ t.phx = s.phx ∧ keyWords t = keyWords s ∧
      counterWords t = ctrAdd s.phx (counterWords s) 1 ∧
      (drawWords .philox t).map BitVec.toNat = generate s.phx (counterWords s) (keyWords s) :=
  ⟨_, exec_phxNext hcv hkv, rfl, rfl, rfl, counterWords_setCtr (ctrAdd_length _ _ _) (ctrAdd_lt _ _ _),
    drawWords_philox_setOut (generate_length s) (generate_lt s)⟩

theorem outputStream_lcgNext (k : Nat) {s : State} (herr : s.status.err = false)
    (hxv : s.status.xv = true) :
    (outputStream .lcg (List.replicate k (commandWrite (encode .lcgNext))) s).map BitVec.toNat =
      (List.range k).map fun j => lcgIter s.lcg (j + 1) s.x.toNat := by
  induction k generalizing s with
  | zero => rfl
  | succ k ih =>
    have hready : ready .lcgNext s.status = true := hxv
    obtain ⟨t, hexec, hstatus, hlcg, hx, hdraw⟩ := exec_lcgNext_draw hxv
    have hrest := ih (hstatus ▸ herr) (hstatus ▸ hxv)
    rw [List.replicate_succ, outputStream_draw (e := .lcg) rfl rfl herr hready hexec, List.map_append,
      hdraw, hrest, hlcg, hx, List.range_succ_eq_map]
    simp [lcgIter_lcgF, lcgIter]

theorem outputStream_phxNext (k : Nat) {s : State} (herr : s.status.err = false)
    (hcv : s.status.cv = true) (hkv : s.status.kv = true) (hctr : ∀ v ∈ counterWords s, v < 2 ^ s.phx.W) :
    (outputStream .philox (List.replicate k (commandWrite (encode .phxNext))) s).map BitVec.toNat =
      (List.range k).flatMap fun j =>
        generate s.phx (ctrAdd s.phx (counterWords s) j) (keyWords s) := by
  induction k generalizing s with
  | zero => rfl
  | succ k ih =>
    have hready : ready .phxNext s.status = true := by simp [ready, hcv, hkv]
    obtain ⟨t, hexec, hstatus, hphx, hkey, hnext, hdraw⟩ := exec_phxNext_draw hcv hkv
    have hctr' : ∀ v ∈ counterWords t, v < 2 ^ t.phx.W := by
      rw [hnext, hphx]
      exact ctrAdd_lt _ _ _
    have hrest := ih (hstatus ▸ herr) (hstatus ▸ hcv) (hstatus ▸ hkv) hctr'
    rw [List.replicate_succ, outputStream_draw (e := .philox) rfl rfl herr hready hexec, List.map_append,
      hdraw, hrest, hphx, hkey, hnext, List.range_succ_eq_map]
    simp [ctrAdd_zero (counterWords_length s) hctr, ctrAdd_ctrAdd, List.flatMap_map, Nat.add_comm 1]

end Sys2Proof.Machine
end

section
/-! The statements of the family 40_common_interface.md. -/

namespace Sys2Proof.Machine

/-- Settles O54: by induction on the number of draws, for each engine. -/
theorem outputStreamsOfConsecutiveDraws : Obligations.OutputStreamsOfConsecutiveDraws := by
  intro s k herr
  refine ⟨fun hxv _ => outputStream_lcgNext k herr hxv, fun hcv hkv hctr => ?_⟩
  exact outputStream_phxNext k herr hcv hkv fun v hv => Quad.toNats_lt hctr v (List.mem_of_mem_take hv)

/-- Settles O28: the frame lemmas of the commands, clause by clause. -/
theorem commandsKeepTheFrame : Obligations.CommandsKeepTheFrame := by
  intro i s t h _
  have hframe := exec_frame h
  have hstatus := exec_statusFrame h
  refine ⟨hframe.op, hframe.inst, hstatus.pending, hstatus.returned, exec_lcg_keeps_philox h,
    exec_philox_keeps_lcg h, ?_, ?_, hstatus.xv.resolve_left, hstatus.kv.resolve_left,
    hstatus.cv.resolve_left, hstatus.record⟩
  · rintro rfl herr
    exact exec_phxGen_frame h herr
  · rintro (rfl | rfl) <;> exact hframe.out.resolve_right (by decide)

/-- Settles O9: the list of the statement is `readableRows` with each register's value. -/
theorem regReadReturnsTheMappedRegister : Obligations.RegReadReturnsTheMappedRegister := by
  intro s idx v hmem
  change (idx, v) ∈ readableRows.map fun row => (row.1, readReg row.2 s) at hmem
  obtain ⟨⟨idx, r⟩, hrow, heq⟩ := List.mem_map.1 hmem
  cases heq
  exact regRead_of_readableReg (readableReg_of_mem_readableRows _ hrow) s

/-- Settles O11: the write is `setOp` at `idx - 4`, and `Quad.get_set` reads the registers after it. -/
theorem operandWriteStoresAllBits : Obligations.OperandWriteStoresAllBits := by
  intro s idx v herr hlow hhigh
  obtain ⟨i, hidx⟩ : ∃ i : Fin 4, idx.toNat = 4 + i.val :=
    ⟨⟨idx.toNat - 4, by omega⟩, (Nat.add_sub_of_le hlow).symm⟩
  refine ⟨s.setOp i v, regWrite_operand herr hidx v, rfl, fun j => ?_⟩
  have hij : idx.toNat = 4 + j.val ↔ j = i := by omega
  simp only [State.setOp_op, Quad.get_set, hij]

end Sys2Proof.Machine
end

section
/-! SUPPORT. The `n`-step map of the LCG is affine (41_lcg.md R104): how its coefficients add up, the closed forms of
`C_n`. Every law here is for any record, a modulus 0 or 1 included, unless it says otherwise. -/

namespace Sys2Proof.Machine

/-! ### The geometric sum -/

theorem geomSum_add (a i j : Nat) : geomSum a (i + j) = geomSum a i + a ^ i * geomSum a j := by
  induction j with
  | zero => rfl
  | succ j ih =>
    rw [← Nat.add_assoc, geomSum, ih, geomSum, pow_add]
    ring

/-- The sum telescopes when it is multiplied by `a - 1`; here without a subtraction. -/
theorem geomSum_mul_add_one (a n : Nat) : geomSum a n * a + 1 = geomSum a n + a ^ n :=
  calc geomSum a n * a + 1 = geomSum a (1 + n) := by rw [geomSum_add, geomSum, geomSum]; ring
    _ = geomSum a n + a ^ n := by rw [Nat.add_comm]; rfl

theorem geomSum_modEq_of_one {a m : Nat} (ha : a ≡ 1 [MOD m]) (n : Nat) : geomSum a n ≡ n [MOD m] := by
  induction n with
  | zero => rfl
  | succ n ih =>
    have hpow : a ^ n ≡ 1 [MOD m] := by simpa using ha.pow n
    exact ih.add hpow

/-- The telescoping sum modulo `m`, with the differences of R104 taken modulo `m`. -/
theorem geomSum_mul_pred_modEq {m : Nat} (hm : 1 ≤ m) (a n : Nat) :
    geomSum a n * (a + m - 1) ≡ a ^ n + m - 1 [MOD m] := by
  have hexact : geomSum a n * (a + m - 1) + 1 = a ^ n + m * geomSum a n := by
    obtain ⟨k, rfl⟩ := Nat.exists_eq_add_of_le' hm
    have htele := geomSum_mul_add_one a n
    have hsplit : geomSum a n * (a + k) = geomSum a n * a + geomSum a n * k := Nat.mul_add _ _ _
    have hright : (k + 1) * geomSum a n = geomSum a n * k + geomSum a n := by ring
    rw [← Nat.add_assoc, Nat.add_sub_cancel, hsplit, hright]
    omega
  apply Nat.ModEq.add_right_cancel' 1
  calc geomSum a n * (a + m - 1) + 1 = a ^ n + m * geomSum a n := hexact
    _ ≡ a ^ n + m [MOD m] := Nat.ModEq.add_left _ (by simp [Nat.ModEq])
    _ = a ^ n + m - 1 + 1 := by omega

/-! ### The coefficients -/

theorem one_le_m_of_wf {p : LcgParams} (h : p.wf = true) : 1 ≤ p.m := by
  simp only [LcgParams.wf, Bool.and_eq_true, decide_eq_true_eq] at h
  omega

theorem affineA_modEq (p : LcgParams) (n : Nat) : affineA p n ≡ p.a ^ n [MOD p.m] := Nat.mod_modEq _ _

theorem affineC_modEq (p : LcgParams) (n : Nat) : affineC p n ≡ p.c * geomSum p.a n [MOD p.m] :=
  Nat.mod_modEq _ _

theorem affineA_zero (p : LcgParams) : affineA p 0 = 1 % p.m := rfl

theorem affineC_zero (p : LcgParams) : affineC p 0 = 0 := Nat.zero_mod _

theorem affineA_one (p : LcgParams) : affineA p 1 = p.a % p.m := by rw [affineA, pow_one]

theorem affineC_one (p : LcgParams) : affineC p 1 = p.c % p.m := by simp [affineC, geomSum]

/-- The multiplier of `i` steps and then `j` steps. -/
theorem affineA_add (p : LcgParams) (i j : Nat) : affineA p i * affineA p j % p.m = affineA p (i + j) := by
  rw [affineA, affineA, affineA, ← Nat.mul_mod, pow_add]

/-- The increment of `i` steps and then `j` steps: the second map applied to the first one's increment. -/
theorem affineC_add (p : LcgParams) (i j : Nat) :
    (affineC p i * affineA p j + affineC p j) % p.m = affineC p (i + j) :=
  calc affineC p i * affineA p j + affineC p j
      ≡ p.c * geomSum p.a i * p.a ^ j + p.c * geomSum p.a j [MOD p.m] :=
        ((affineC_modEq p i).mul (affineA_modEq p j)).add (affineC_modEq p j)
    _ = p.c * geomSum p.a (i + j) := by rw [Nat.add_comm i j, geomSum_add]; ring

/-- `C_n` where `a` is 1 modulo `m` (the first branch of R104). -/
theorem affineC_of_multiplier_one {p : LcgParams} (ha : p.a ≡ 1 [MOD p.m]) (n : Nat) :
    affineC p n = p.c * n % p.m :=
  (geomSum_modEq_of_one ha n).mul_left p.c

/-- `C_n` through an inverse `u` of `a - 1` (the second branch of R104). -/
theorem affineC_of_inverse {p : LcgParams} (hm : 1 ≤ p.m) {u : Nat}
    (hu : u * (p.a + p.m - 1) ≡ 1 [MOD p.m]) (n : Nat) :
    affineC p n = p.c * (p.a ^ n + p.m - 1) * u % p.m := by
  have hsum : geomSum p.a n ≡ (p.a ^ n + p.m - 1) * u [MOD p.m] :=
    calc geomSum p.a n = geomSum p.a n * 1 := (Nat.mul_one _).symm
      _ ≡ geomSum p.a n * (u * (p.a + p.m - 1)) [MOD p.m] := hu.symm.mul_left _
      _ = geomSum p.a n * (p.a + p.m - 1) * u := by ring
      _ ≡ (p.a ^ n + p.m - 1) * u [MOD p.m] := (geomSum_mul_pred_modEq hm p.a n).mul_right u
  rw [Nat.mul_assoc]
  exact hsum.mul_left p.c

/-! ### The iterated step -/

theorem lcgIter_add (p : LcgParams) (i j x : Nat) : lcgIter p (i + j) x = lcgIter p j (lcgIter p i x) := by
  induction j with
  | zero => rfl
  | succ j ih => exact congrArg (lcgF p) ih

theorem lcgIter_lt {p : LcgParams} {x : Nat} (hx : x < p.m) (n : Nat) : lcgIter p n x < p.m := by
  cases n with
  | zero => exact hx
  | succ n => exact Nat.mod_lt _ (Nat.zero_lt_of_lt hx)

theorem lcgIter_modEq (p : LcgParams) (n x : Nat) :
    lcgIter p n x ≡ affineA p n * x + affineC p n [MOD p.m] := by
  have hexact : lcgIter p n x ≡ p.a ^ n * x + p.c * geomSum p.a n [MOD p.m] := by
    induction n with
    | zero => simp [lcgIter, geomSum, Nat.ModEq]
    | succ n ih =>
      have htele := geomSum_mul_add_one p.a n
      calc lcgIter p (n + 1) x ≡ p.a * lcgIter p n x + p.c [MOD p.m] := Nat.mod_modEq _ _
        _ ≡ p.a * (p.a ^ n * x + p.c * geomSum p.a n) + p.c [MOD p.m] := (ih.mul_left _).add_right _
        _ = p.a ^ (n + 1) * x + p.c * (geomSum p.a n * p.a + 1) := by ring
        _ = p.a ^ (n + 1) * x + p.c * geomSum p.a (n + 1) := by rw [htele]; rfl
  exact hexact.trans (((affineA_modEq p n).mul_right x).add (affineC_modEq p n)).symm

/-- The `n`-step map is affine on the states of the LCG (R104). -/
theorem lcgIter_eq_affine {p : LcgParams} {x : Nat} (hx : x < p.m) (n : Nat) :
    lcgIter p n x = (affineA p n * x + affineC p n) % p.m :=
  (Nat.mod_eq_of_lt (lcgIter_lt hx n)).symm.trans (lcgIter_modEq p n x)

end Sys2Proof.Machine
end

section
/-! SUPPORT. The loop of `jump_coeffs` (41_lcg.md R105) on coefficients of the `n`-step map, and `modpow` (R106) as the
`A` component of that loop. -/

namespace Sys2Proof.Machine

/-- One iteration of the loop: the lowest bit of `n` decides whether the present power's map is composed onto the
result, and the power is doubled. -/
theorem jumpLoop_iteration (p : LcgParams) (fuel : Nat) {n : Nat} (hn : n ≠ 0) (k j : Nat) :
    jumpLoop p (fuel + 1) n (affineA p k) (affineC p k) (affineA p j) (affineC p j) =
      jumpLoop p fuel (n / 2) (affineA p (k + j * (n % 2))) (affineC p (k + j * (n % 2)))
        (affineA p (2 * j)) (affineC p (2 * j)) := by
  have hC : affineC p j * (affineA p j + 1) % p.m = affineC p (2 * j) := by
    rw [Nat.mul_succ, affineC_add, two_mul]
  rw [jumpLoop, if_neg hn, affineA_add, affineA_add, affineC_add, hC, ← two_mul]
  rcases Nat.mod_two_eq_zero_or_one n with hbit | hbit <;> simp [hbit]

/-- From the map for `k` steps and the power's map for `j` steps the loop reaches the map for `k + j * n` steps. -/
theorem jumpLoop_affine (p : LcgParams) {fuel n : Nat} (hfuel : n < 2 ^ fuel) (k j : Nat) :
    jumpLoop p fuel n (affineA p k) (affineC p k) (affineA p j) (affineC p j) =
      (affineA p (k + j * n), affineC p (k + j * n)) := by
  induction fuel generalizing n k j with
  | zero =>
    obtain rfl : n = 0 := by simpa using hfuel
    rfl
  | succ fuel ih =>
    by_cases hn : n = 0
    · subst hn
      rfl
    · have hhalf : n / 2 < 2 ^ fuel := by rw [pow_succ] at hfuel; omega
      have hsteps : k + j * (n % 2) + 2 * j * (n / 2) = k + j * n :=
        calc k + j * (n % 2) + 2 * j * (n / 2) = k + j * (n % 2 + 2 * (n / 2)) := by ring
          _ = k + j * n := by rw [Nat.mod_add_div]
      rw [jumpLoop_iteration p fuel hn, ih hhalf, hsteps]

/-- The loop as `jump_coeffs` starts it: the map for 0 steps and the map for one step. -/
theorem jumpLoop_start (p : LcgParams) (fuel n : Nat) :
    jumpLoop p fuel n (1 % p.m) 0 (p.a % p.m) (p.c % p.m) =
      jumpLoop p fuel n (affineA p 0) (affineC p 0) (affineA p 1) (affineC p 1) := by
  rw [affineA_zero, affineC_zero, affineA_one, affineC_one]

/-- With at least as many iterations as `n` has bits the loop gives the coefficients of the `n`-step map. -/
theorem jumpLoop_start_affine (p : LcgParams) {fuel n : Nat} (hfuel : n < 2 ^ fuel) :
    jumpLoop p fuel n (1 % p.m) 0 (p.a % p.m) (p.c % p.m) = (affineA p n, affineC p n) := by
  rw [jumpLoop_start, jumpLoop_affine p hfuel, Nat.zero_add, Nat.one_mul]

theorem jumpCoeffs_eq_affine (p : LcgParams) (n : Nat) : jumpCoeffs p n = (affineA p n, affineC p n) :=
  jumpLoop_start_affine p Nat.lt_log2_self

/-- The loop invariant of R105, at the start of iteration `i`. -/
theorem jumpLoop_invariant (p : LcgParams) {n i : Nat} (rest : Nat) (hi : 2 ^ i ≤ 2 * n) :
    jumpLoop p (i + rest) n (1 % p.m) 0 (p.a % p.m) (p.c % p.m) =
      jumpLoop p rest (n / 2 ^ i) (affineA p (n % 2 ^ i)) (affineC p (n % 2 ^ i))
        (affineA p (2 ^ i)) (affineC p (2 ^ i)) := by
  induction i generalizing rest with
  | zero => simp [jumpLoop_start, Nat.mod_one]
  | succ i ih =>
    rw [pow_succ] at hi
    have hbits : n / 2 ^ i ≠ 0 := (Nat.div_pos (by omega) (Nat.two_pow_pos i)).ne'
    rw [Nat.add_assoc, Nat.add_comm 1 rest, ih (rest + 1) (by omega), jumpLoop_iteration p rest hbits,
      ← Nat.mod_pow_succ, Nat.div_div_eq_div_mul, ← pow_succ, ← pow_succ']

theorem lcgIter_eq_jumpCoeffs {p : LcgParams} {x : Nat} (hx : x < p.m) (n : Nat) :
    lcgIter p n x = ((jumpCoeffs p n).1 * x + (jumpCoeffs p n).2) % p.m := by
  rw [jumpCoeffs_eq_affine, lcgIter_eq_affine hx]

/-! ### Square-and-multiply -/

/-- The loop of `modpow` is the `A` component of the loop of `jump_coeffs` (R106). -/
theorem jumpLoop_fst_eq_modpowLoop (p : LcgParams) (fuel n A C h f : Nat) :
    (jumpLoop p fuel n A C h f).1 = modpowLoop p.m fuel n A h := by
  induction fuel generalizing n A C h f with
  | zero => rfl
  | succ fuel ih =>
    rw [jumpLoop, modpowLoop]
    split
    · rfl
    · split <;> exact ih ..

theorem jumpCoeffs_fst_eq_modpow (p : LcgParams) (n : Nat) : (jumpCoeffs p n).1 = modpow p.a n p.m :=
  jumpLoop_fst_eq_modpowLoop ..

theorem modpow_eq_pow_mod (b n m : Nat) : modpow b n m = b ^ n % m := by
  have hA : (jumpCoeffs ⟨b, 0, m⟩ n).1 = affineA ⟨b, 0, m⟩ n := by rw [jumpCoeffs_eq_affine]
  rwa [jumpCoeffs_fst_eq_modpow] at hA

end Sys2Proof.Machine
end

section
/-! SUPPORT. The extended Euclidean algorithm and the modular inverse (41_lcg.md R107). -/

namespace Sys2Proof.Machine

/-- With a bound above the smaller remainder the loop ends at the greatest common divisor. -/
theorem euclidLoop_fst {fuel r0 r1 : Nat} (hfuel : r1 < fuel) (t0 t1 : Int) :
    (euclidLoop fuel r0 r1 t0 t1).1 = Nat.gcd r0 r1 := by
  induction fuel generalizing r0 r1 t0 t1 with
  | zero => omega
  | succ fuel ih =>
    rw [euclidLoop]
    split
    · next hzero => simp [hzero]
    · next hpos =>
      have hless : r0 % r1 < r1 := Nat.mod_lt _ (Nat.pos_of_ne_zero hpos)
      rw [ih (by omega), Nat.gcd_comm r0 r1, Nat.gcd_rec r1 r0, Nat.gcd_comm]

/-- The invariant of the loop: each cofactor times `v` is its remainder modulo `m`. -/
theorem euclidLoop_cofactor {m v : Int} (fuel : Nat) {r0 r1 : Nat} {t0 t1 : Int}
    (h0 : t0 * v ≡ r0 [ZMOD m]) (h1 : t1 * v ≡ r1 [ZMOD m]) :
    (euclidLoop fuel r0 r1 t0 t1).2 * v ≡ (euclidLoop fuel r0 r1 t0 t1).1 [ZMOD m] := by
  induction fuel generalizing r0 r1 t0 t1 with
  | zero => exact h0
  | succ fuel ih =>
    rw [euclidLoop]
    split
    · exact h0
    · refine ih h1 ?_
      calc (t0 - (r0 / r1 : Nat) * t1) * v = t0 * v - (r0 / r1 : Nat) * (t1 * v) := by ring
        _ ≡ r0 - (r0 / r1 : Nat) * r1 [ZMOD m] := h0.sub (h1.mul_left _)
        _ = (r0 % r1 : Nat) := by push_cast [Int.emod_def]; ring

/-- All that `modinv` can answer: a cofactor that inverts `v`, reduced, or nothing. -/
theorem modinv_cases (v m : Nat) :
    (Nat.gcd v m = 1 ∧ ∃ t : Int, t * v ≡ 1 [ZMOD m] ∧ modinv v m = some (t % m).toNat) ∨
      (Nat.gcd v m ≠ 1 ∧ modinv v m = none) := by
  have hgcd : (euclidLoop (v % m + 1) m (v % m) 0 1).1 = Nat.gcd v m := by
    rw [euclidLoop_fst (Nat.lt_succ_self _), Nat.gcd_comm, ← Nat.gcd_rec, Nat.gcd_comm]
  have hcof := euclidLoop_cofactor (m := m) (v := v) (v % m + 1) (r0 := m) (r1 := v % m) (t0 := 0) (t1 := 1)
    (by simp [Int.ModEq]) (by simp [Int.ModEq])
  unfold modinv
  split
  · next t hloop =>
    rw [hloop] at hgcd hcof
    exact .inl ⟨hgcd.symm, t, hcof, rfl⟩
  · next g t hne hloop =>
    rw [hloop] at hgcd
    exact .inr ⟨fun hone => hne (hgcd.trans hone), rfl⟩

theorem modinv_of_coprime {v m : Nat} (hm : 1 ≤ m) (hgcd : Nat.gcd v m = 1) :
    ∃ u, modinv v m = some u ∧ u < m ∧ u * v ≡ 1 [MOD m] := by
  rcases modinv_cases v m with ⟨_, t, ht, hsome⟩ | ⟨hne, _⟩
  · have hm' : (0 : Int) < m := by exact_mod_cast hm
    have hcast : ((t % m).toNat : Int) = t % m := Int.toNat_of_nonneg (Int.emod_nonneg _ hm'.ne')
    refine ⟨_, hsome, ?_, ?_⟩
    · have hlt := Int.emod_lt_of_pos t hm'
      omega
    · rw [← Int.natCast_modEq_iff]
      push_cast [hcast]
      exact ((Int.mod_modEq t m).mul_right v).trans ht
  · exact absurd hgcd hne

theorem modinv_eq_none_iff (v m : Nat) : modinv v m = none ↔ Nat.gcd v m ≠ 1 := by
  rcases modinv_cases v m with ⟨hgcd, t, _, hsome⟩ | ⟨hne, hnone⟩
  · simp [hgcd, hsome]
  · simp [hne, hnone]

theorem modinv_isSome_iff (v m : Nat) : (∃ u, modinv v m = some u) ↔ Nat.gcd v m = 1 := by
  rw [← Option.isSome_iff_exists, ← not_iff_not, Option.not_isSome_iff_eq_none, modinv_eq_none_iff]

/-- An inverse modulo `m` is the only one below `m`. -/
theorem inverse_unique {v m u u' : Nat} (hgcd : Nat.gcd v m = 1) (hu : u < m) (hu' : u' < m)
    (h : u * v ≡ u' * v [MOD m]) : u = u' :=
  (Nat.ModEq.cancel_right_of_coprime (Nat.gcd_comm v m ▸ hgcd) h).eq_of_lt_of_lt hu hu'

theorem modinv_eq_some_iff {v m : Nat} (hm : 1 ≤ m) (u : Nat) :
    modinv v m = some u ↔ Nat.gcd v m = 1 ∧ u < m ∧ u * v ≡ 1 [MOD m] := by
  constructor
  · intro h
    have hgcd := (modinv_isSome_iff v m).1 ⟨u, h⟩
    obtain ⟨w, hsome, hw⟩ := modinv_of_coprime hm hgcd
    obtain rfl : w = u := Option.some.inj (hsome.symm.trans h)
    exact ⟨hgcd, hw⟩
  · rintro ⟨hgcd, hlt, hinv⟩
    obtain ⟨w, hsome, hwlt, hwinv⟩ := modinv_of_coprime hm hgcd
    rw [hsome, inverse_unique hgcd hwlt hlt (hwinv.trans hinv.symm)]

/-! ### The closed form of `C_n` -/

/-- A remainder of 1 as a congruence, whatever the modulus. -/
theorem modEq_one_of_mod {v m : Nat} (h : v % m = 1) : v ≡ 1 [MOD m] := h ▸ (Nat.mod_modEq v m).symm

/-- Where the closed form answers, it answers `C_n` (R107). -/
theorem closedC_sound {p : LcgParams} (hm : 1 ≤ p.m) {n C : Nat} (h : closedC p n = some C) :
    C = affineC p n := by
  unfold closedC at h
  split at h
  · next ha =>
    cases h
    exact (affineC_of_multiplier_one (modEq_one_of_mod ha) n).symm
  · split at h
    · next u hsome =>
      cases h
      obtain ⟨_, _, hinv⟩ := (modinv_eq_some_iff hm u).1 hsome
      have hu : u * (p.a + p.m - 1) ≡ 1 [MOD p.m] := ((Nat.mod_modEq _ _).mul_left u).symm.trans hinv
      have hpow : (affineA p n + p.m - 1) % p.m ≡ p.a ^ n + p.m - 1 [MOD p.m] := by
        rw [Nat.add_sub_assoc hm, Nat.add_sub_assoc hm]
        exact (Nat.mod_modEq _ _).trans ((affineA_modEq p n).add_right _)
      rw [affineC_of_inverse hm hu]
      exact (hpow.mul_left p.c).mul_right u
    · cases h

/-- The closed form answers exactly when `a` is 1 modulo `m` or `a - 1` has an inverse. -/
theorem closedC_eq_none_iff (p : LcgParams) (n : Nat) :
    closedC p n = none ↔ p.a % p.m ≠ 1 ∧ Nat.gcd ((p.a + p.m - 1) % p.m) p.m ≠ 1 := by
  rw [← modinv_eq_none_iff]
  unfold closedC
  split
  · next ha => simp [ha]
  · next ha => cases modinv ((p.a + p.m - 1) % p.m) p.m <;> simp [ha]

end Sys2Proof.Machine
end

section
/-! SUPPORT. What the LCG commands leave in `X` (41_lcg.md R101 to R103), as numbers, and runs of `LCG.NEXT`. -/

namespace Sys2Proof.Machine

/-! ### One command -/

/-- A remainder modulo `m` is not cut by the register it goes to. -/
theorem toNat_ofNat_mod_m (s : State) (v : Nat) : (BitVec.ofNat 64 (v % s.lcg.m)).toNat = v % s.lcg.m := by
  obtain ⟨hlow, hhigh⟩ := lcg_m_bounds s
  rw [BitVec.toNat_ofNat, Nat.mod_eq_of_lt ((Nat.mod_lt v (by omega)).trans_le hhigh)]

theorem toNat_ofNat_lcgIter {s : State} (hx : s.x.toNat < s.lcg.m) (n : Nat) :
    (BitVec.ofNat 64 (lcgIter s.lcg n s.x.toNat)).toNat = lcgIter s.lcg n s.x.toNat := by
  rw [lcgIter_eq_affine hx, toNat_ofNat_mod_m]

/-- `LCG.DISCARD` writes the `OP[0]`-fold step to `X`, and nothing else. -/
theorem exec_lcgDiscard_iter {s : State} (hxv : s.status.xv = true) (hx : s.x.toNat < s.lcg.m) :
    exec .lcgDiscard s = .next (s.setX (lcgIter s.lcg s.op.w0.toNat s.x.toNat)) := by
  rw [exec_lcgDiscard hxv, lcgIter_eq_jumpCoeffs hx]
  rfl

/-- `LCG.DISCARD` after its count has been written to `OP[0]`. -/
theorem exec_lcgDiscard_operand {s : State} (hxv : s.status.xv = true) (hx : s.x.toNat < s.lcg.m) (n : Word) :
    ∃ t, exec .lcgDiscard (s.setOp 0 n) = .next t ∧ t.status = s.status ∧ t.lcg = s.lcg ∧
      t.x.toNat = lcgIter s.lcg n.toNat s.x.toNat :=
  ⟨_, exec_lcgDiscard_iter (s := s.setOp 0 n) hxv hx, rfl, rfl, toNat_ofNat_lcgIter hx _⟩

/-- Whether an LCG command is ready depends on `XV` alone. -/
theorem ready_lcg_congr {i : Instr} (heng : engineOf i = .lcg) {t t' : Status} (hxv : t.xv = t'.xv) :
    ready i t = ready i t' := by
  cases i with
  | lcgSeed => rfl
  | lcgNext | lcgDiscard => exact hxv
  | phxSetKey | phxSetCtr | phxNext | phxJump | phxGen => cases heng

/-! ### Runs -/

theorem execList_cons {i : Instr} {s t : State} (h : exec i s = .next t) (is : List Instr) :
    execList (i :: is) s = execList is t := by
  rw [execList, h]

theorem execList_append {is : List Instr} {s t : State} (h : execList is s = .next t) (js : List Instr) :
    execList (is ++ js) s = execList js t := by
  induction is generalizing s with
  | nil => cases h; rfl
  | cons i is ih =>
    obtain ⟨u, hu⟩ := exec_answers i s
    rw [execList_cons hu] at h
    rw [List.cons_append, execList_cons hu, ih h]

/-- `k` draws: they complete, leave the `k`-fold step in `X`, and the last one has emitted that state (R102). -/
theorem execList_lcgNext {s : State} (hxv : s.status.xv = true) (k : Nat) :
    ∃ t, execList (List.replicate k .lcgNext) s = .next t ∧ t.status = s.status ∧ t.lcg = s.lcg ∧
      t.x.toNat = lcgIter s.lcg k s.x.toNat ∧ (1 ≤ k → t.out.w0 = t.x) := by
  induction k with
  | zero => exact ⟨s, rfl, rfl, rfl, rfl, by simp⟩
  | succ k ih =>
    obtain ⟨u, hrun, hstatus, hlcg, hx, _⟩ := ih
    have hlast := (execList_append hrun _).trans (execList_cons (exec_lcgNext (hstatus ▸ hxv)) [])
    rw [← List.replicate_succ'] at hlast
    refine ⟨_, hlast, hstatus, hlcg, ?_, fun _ => rfl⟩
    rw [State.setOut_x, State.setX_x, lcgF, toNat_ofNat_mod_m, hlcg, hx]
    rfl

/-! ### The period of `LCG48` -/

/-- `2^64` steps of `LCG48` lead back: its period is `2^48`. -/
theorem lcgIter_lcg48_pow64 {x : Nat} (hx : x < (lcgParams .lcg48).m) :
    lcgIter (lcgParams .lcg48) (2 ^ 64) x = x := by
  have hcoeffs : jumpCoeffs (lcgParams .lcg48) (2 ^ 64) = (1, 0) := by decide
  rw [lcgIter_eq_jumpCoeffs hx, hcoeffs, Nat.one_mul, Nat.add_zero, Nat.mod_eq_of_lt hx]

/-- On `LCG48` the sum of two counts may be taken modulo `2^64` (R110). -/
theorem lcgIter_lcg48_wrapped_sum (a b : Word) {x : Nat} (hx : x < (lcgParams .lcg48).m) :
    lcgIter (lcgParams .lcg48) (a + b).toNat x = lcgIter (lcgParams .lcg48) (a.toNat + b.toNat) x := by
  have ha := a.isLt
  have hb := b.isLt
  rw [BitVec.toNat_add]
  by_cases hfits : a.toNat + b.toNat < 2 ^ 64
  · rw [Nat.mod_eq_of_lt hfits]
  · have hwrap : a.toNat + b.toNat = 2 ^ 64 + (a.toNat + b.toNat) % 2 ^ 64 := by omega
    conv_rhs => rw [hwrap, lcgIter_add, lcgIter_lcg48_pow64 hx]

end Sys2Proof.Machine
end

section
/-! The statements of the family 41_lcg.md. -/

namespace Sys2Proof.Machine

/-- Settles O33: the affine form by induction on `n`; the two branches of `C_n` by the telescoping sum. -/
theorem nStepMapIsAffine : Obligations.NStepMapIsAffine := by
  intro p n hwf
  have hm := one_le_m_of_wf hwf
  exact ⟨fun x hx => ⟨lcgIter_eq_affine hx n, lcgIter_lt hx n⟩,
    fun ha => affineC_of_multiplier_one (modEq_one_of_mod ha) n,
    fun u hu => affineC_of_inverse hm (modEq_one_of_mod hu) n⟩

/-- Settles O34: the loop composes the coefficients bit by bit. -/
theorem jumpCoeffsAreTheAffineCoefficients : Obligations.JumpCoeffsAreTheAffineCoefficients :=
  fun p n => ⟨jumpCoeffs_eq_affine p n, jumpLoop_start_affine p, fun _ rest => jumpLoop_invariant p rest⟩

/-- Settles O36: the loop of `modpow` is the `A` component of the loop of `jump_coeffs`. -/
theorem modpowIsThePower : Obligations.ModpowIsThePower :=
  ⟨fun b n m _ => modpow_eq_pow_mod b n m, fun p n _ => jumpCoeffs_fst_eq_modpow p n⟩

/-- Settles O37: the cofactor of the Euclidean loop is the inverse, and an inverse below `m` is unique. -/
theorem modinvIsTheUniqueInverse : Obligations.ModinvIsTheUniqueInverse :=
  fun v m hm => ⟨modinv_isSome_iff v m, modinv_eq_some_iff hm⟩

/-- Settles O38: 48270 is coprime to the modulus of `LCG31`; on `LCG48` both `a - 1` and `m` are even. -/
theorem closedFormAgreesWhereItApplies : Obligations.ClosedFormAgreesWhereItApplies := by
  refine ⟨fun p n C hwf => closedC_sound (one_le_m_of_wf hwf), fun n => ?_, fun n => ?_⟩
  · have hgcd : Nat.gcd (((lcgParams .lcg31).a + (lcgParams .lcg31).m - 1) % (lcgParams .lcg31).m)
        (lcgParams .lcg31).m = 1 := by decide
    rw [Option.isSome_iff_ne_none, Ne, closedC_eq_none_iff]
    exact fun ⟨_, hne⟩ => hne hgcd
  · rw [closedC_eq_none_iff]
    decide

/-- Settles O20: a remainder modulo `m` fits `X`. -/
theorem lcgSeedReducesTheSeed : Obligations.LcgSeedReducesTheSeed :=
  ⟨decode_encode .lcgSeed, fun s _ => ⟨_, exec_lcgSeed s, toNat_ofNat_mod_m s _, rfl⟩⟩

/-- Settles O21: the ready case is `exec_lcgNext`, the other one the `UNINIT` record. -/
theorem lcgNextStepsAndEmitsTheNewState : Obligations.LcgNextStepsAndEmitsTheNewState :=
  ⟨decode_encode .lcgNext, fun s _ =>
    ⟨fun hxv => ⟨_, exec_lcgNext hxv, toNat_ofNat_mod_m s _, rfl⟩, fun hxv => exec_unready hxv⟩⟩

/-- Settles O22: the affine map with the coefficients of `jump_coeffs` is the iterated step. -/
theorem lcgDiscardIsTheIteratedStep : Obligations.LcgDiscardIsTheIteratedStep :=
  ⟨decode_encode .lcgDiscard, fun _ _ =>
    ⟨fun hxv hx => ⟨_, exec_lcgDiscard_iter hxv hx, toNat_ofNat_lcgIter hx _, rfl⟩,
      fun hxv => exec_unready hxv⟩⟩

/-- Settles O39: both runs leave the `(n + k)`-fold step, and the last draw emits what is left in `X`. -/
theorem discardThenNextIsSequentialStepping : Obligations.DiscardThenNextIsSequentialStepping := by
  intro s k _ hxv hx
  have hdiscard := exec_lcgDiscard_iter hxv hx
  obtain ⟨t, ht, _, _, htx, htout⟩ :=
    execList_lcgNext (s := s.setX (lcgIter s.lcg s.op.w0.toNat s.x.toNat)) hxv k
  obtain ⟨u, hu, _, _, hux, huout⟩ := execList_lcgNext hxv (s.op.w0.toNat + k)
  have hxeq : t.x = u.x := by
    apply BitVec.eq_of_toNat_eq
    rw [htx, hux, State.setX_x, State.setX_lcg, toNat_ofNat_lcgIter hx, lcgIter_add]
  refine ⟨t, u, (execList_cons hdiscard _).trans ht, hu, hxeq, fun hk => ?_⟩
  rw [htout hk, huout (by omega), hxeq]

/-- Settles O40: discards add up as iterations do; `LCG48` returns after `2^64` steps, and the steps of `LCG31` are
computed by `jump_coeffs`. -/
theorem discardsCompose : Obligations.DiscardsCompose := by
  refine ⟨fun s a b _ hxv hx => ?_, ?_⟩
  · obtain ⟨t1, hexec1, hstatus1, hlcg1, hx1⟩ := exec_lcgDiscard_operand hxv hx a
    have hrange1 : t1.x.toNat < t1.lcg.m := by
      rw [hx1, hlcg1]
      exact lcgIter_lt hx _
    obtain ⟨t2, hexec2, _, _, hx2⟩ := exec_lcgDiscard_operand (hstatus1 ▸ hxv) hrange1 b
    obtain ⟨t3, hexec3, _, _, hx3⟩ := exec_lcgDiscard_operand hxv hx (a + b)
    rw [hlcg1, hx1, ← lcgIter_add] at hx2
    refine ⟨t1, t2, t3, hexec1, hexec2, hexec3, hx2, fun hfits => ?_, fun hvariant => ?_⟩ <;>
      apply BitVec.eq_of_toNat_eq <;> rw [hx3, hx2]
    · rw [BitVec.toNat_add, Nat.mod_eq_of_lt hfits]
    · have hlcg : s.lcg = lcgParams .lcg48 := congrArg lcgParams hvariant
      rw [hlcg] at hx ⊢
      exact lcgIter_lcg48_wrapped_sum a b hx
  · rw [lcgIter_eq_jumpCoeffs (by decide)]
    decide

/-- Settles O41: readiness depends on `XV` alone, and each command's effect on the record, `X` and `OP[0]`. -/
theorem lcgOutputsDependOnLcgStateOnly : Obligations.LcgOutputsDependOnLcgStateOnly := by
  intro i s s' t t' heng hvariant hx hop hxv h h'
  have hlcg : s.lcg = s'.lcg := congrArg lcgParams hvariant
  have hready' : ready i s'.status = ready i s.status := (ready_lcg_congr heng hxv).symm
  cases hready : ready i s.status with
  | false =>
    rw [exec_unready hready] at h
    rw [exec_unready (hready'.trans hready)] at h'
    cases h
    cases h'
    refine ⟨hx, hxv, ?_⟩
    rintro rfl hvalid
    exact absurd (hready.symm.trans hvalid) Bool.false_ne_true
  | true =>
    cases i with
    | lcgSeed =>
      rw [exec_lcgSeed] at h h'
      cases h
      cases h'
      simp [scalarOperand, hop, hlcg]
    | lcgNext =>
      rw [exec_lcgNext hready] at h
      rw [exec_lcgNext (hready'.trans hready)] at h'
      cases h
      cases h'
      simp [drawWords, hx, hxv, hlcg]
    | lcgDiscard =>
      rw [exec_lcgDiscard hready] at h
      rw [exec_lcgDiscard (hready'.trans hready)] at h'
      cases h
      cases h'
      simp [scalarOperand, hx, hop, hxv, hlcg]
    | phxSetKey | phxSetCtr | phxNext | phxJump | phxGen => cases heng

end Sys2Proof.Machine
end

section
/-! SUPPORT. More on the counter as one number (42_philox.md R135, R142, R143): additions count modulo `2^(N*W)`, and
the words of `ctr_add` come out one by one, low word first, which is what the ripple-carry form does. -/

namespace Sys2Proof.Machine

/-- Only the remainder of `delta` modulo `2^(N*W)` matters. -/
theorem ctrAdd_mod (p : PhiloxParams) (ctr : List Nat) (delta : Nat) :
    ctrAdd p ctr (delta % 2 ^ (p.N * p.W)) = ctrAdd p ctr delta := by
  simp only [ctrAdd, Nat.add_mod_mod]

theorem lane_drop (vs : List Nat) (n i : Nat) : lane (vs.drop n) i = lane vs (n + i) := by
  simp [lane]

/-- Horner's form: the low word, and `2^W` times the number of the words above it. -/
theorem counterValue_succ (p : PhiloxParams) (n : Nat) (ctr : List Nat) :
    counterValue { p with N := n + 1 } ctr =
      lane ctr 0 + 2 ^ p.W * counterValue { p with N := n } (ctr.drop 1) := by
  simp only [counterValue, List.range_succ_eq_map, List.map_cons, List.sum_cons, List.map_map,
    ← List.sum_map_mul_left]
  congr 1
  · simp
  · congr 1
    refine List.map_congr_left fun i _ => ?_
    rw [Function.comp_apply, lane_drop, Nat.add_comm 1 i, Nat.mul_succ, pow_add, Nat.mul_comm (2 ^ (p.W * i)),
      Nat.mul_left_comm]

/-- The low word of a counter addition, and the carry into the words above it. -/
theorem ctrAdd_succ (p : PhiloxParams) (n : Nat) (ctr : List Nat) (delta : Nat) :
    ctrAdd { p with N := n + 1 } ctr delta =
      (lane ctr 0 + delta) % 2 ^ p.W ::
        ctrAdd { p with N := n } (ctr.drop 1) ((lane ctr 0 + delta) / 2 ^ p.W) := by
  have hvalue : counterValue { p with N := n + 1 } ctr + delta =
      lane ctr 0 + delta + 2 ^ p.W * counterValue { p with N := n } (ctr.drop 1) := by
    rw [counterValue_succ]
    omega
  refine List.ext_getElem (by simp [ctrAdd_length]) fun i _ _ => ?_
  rw [ctrAdd_getElem, hvalue]
  cases i with
  | zero => simp
  | succ i =>
    rw [List.getElem_cons_succ, ctrAdd_getElem, pow_succ', ← Nat.div_div_eq_div_mul,
      Nat.add_mul_div_left _ _ (Nat.two_pow_pos _), Nat.add_comm (_ / _)]

/-- The loop of R143 from word `i` on adds what is left of `delta`, and the carry, to the words from `i` on. -/
theorem rippleLoop_eq_ctrAdd (p : PhiloxParams) (ctr : List Nat) (delta left i carry : Nat) :
    rippleLoop p ctr delta left i carry =
      ctrAdd { p with N := left } (ctr.drop i) (delta / 2 ^ (p.W * i) + carry) := by
  induction left generalizing i carry with
  | zero => rfl
  | succ left ih =>
    have hdelta : delta / 2 ^ (p.W * (i + 1)) = delta / 2 ^ (p.W * i) / 2 ^ p.W := by
      rw [Nat.mul_succ, pow_add, Nat.div_div_eq_div_mul]
    have hsum : lane ctr i + (delta / 2 ^ (p.W * i) + carry) =
        lane ctr i + delta / 2 ^ (p.W * i) % 2 ^ p.W + carry +
          2 ^ p.W * (delta / 2 ^ (p.W * i) / 2 ^ p.W) := by
      have hsplit := Nat.mod_add_div (delta / 2 ^ (p.W * i)) (2 ^ p.W)
      omega
    rw [rippleLoop, ih, ctrAdd_succ, lane_drop, Nat.add_zero i, List.drop_drop, hsum, Nat.add_mul_mod_self_left,
      Nat.add_mul_div_left _ _ (Nat.two_pow_pos _), hdelta, Nat.add_comm (_ / 2 ^ p.W)]

theorem ctrAddWords_eq_ctrAdd (p : PhiloxParams) (ctr : List Nat) (delta : Nat) :
    ctrAddWords p ctr delta = ctrAdd p ctr delta := by
  rw [ctrAddWords, rippleLoop_eq_ctrAdd, Nat.mul_zero, pow_zero, Nat.div_one]
  rfl

end Sys2Proof.Machine
end

section
/-! SUPPORT. The exact product (42_philox.md R130) and the key schedule (R133, R134): the working key of round `r` is
the round key of the formula. -/

namespace Sys2Proof.Machine

/-! ### The exact product -/

theorem mulhilo_reconstruct (W u v : Nat) :
    u * v = (mulhilo W u v).1 * 2 ^ W + (mulhilo W u v).2 :=
  (Nat.div_add_mod' _ _).symm

theorem mulhilo_lt {W u v : Nat} (hu : u < 2 ^ W) (hv : v < 2 ^ W) :
    (mulhilo W u v).1 < 2 ^ W ∧ (mulhilo W u v).2 < 2 ^ W :=
  ⟨Nat.div_lt_of_lt_mul (Nat.mul_lt_mul'' hu hv), Nat.mod_lt _ (Nat.two_pow_pos W)⟩

/-- The halves are unique: any split of the product with a low half below `2^W` is that of `mulhilo`. -/
theorem mulhilo_eq_of_split {W u v hi lo : Nat} (h : lo + 2 ^ W * hi = u * v) (hlo : lo < 2 ^ W) :
    mulhilo W u v = (hi, lo) := by
  obtain ⟨hdiv, hmod⟩ := (Nat.div_mod_unique (Nat.two_pow_pos W)).2 ⟨h, hlo⟩
  rw [mulhilo, hdiv, hmod]

/-- `(2^W - 1) * v` is `(v - 1) * 2^W + (2^W - v)`. -/
theorem mulhilo_all_ones {W v : Nat} (hv : v < 2 ^ W) (hpos : 1 ≤ v) :
    mulhilo W (2 ^ W - 1) v = (v - 1, 2 ^ W - v) := by
  apply mulhilo_eq_of_split _ (by omega)
  have hle : v ≤ 2 ^ W * v := Nat.le_mul_of_pos_left v (Nat.two_pow_pos W)
  have hle' : 2 ^ W ≤ 2 ^ W * v := Nat.le_mul_of_pos_right _ hpos
  rw [Nat.mul_sub_one, Nat.sub_one_mul]
  omega

/-! ### The key schedule -/

/-- A key of `N/2` words in range is its own round key of round 0. -/
theorem roundKey_zero {p : PhiloxParams} {key : List Nat} (hlen : key.length = p.N / 2)
    (hkey : ∀ v ∈ key, v < 2 ^ p.W) : roundKey p key 0 = key := by
  refine List.ext_getElem (by simp [roundKey, hlen]) fun j _ hj => ?_
  simp [roundKey, lane_eq_getElem hj, Nat.mod_eq_of_lt (hkey _ (List.getElem_mem hj))]

/-- One Weyl increment leads from the key of round `r` to that of round `r + 1`. -/
theorem bumpKey_roundKey (p : PhiloxParams) (key : List Nat) (r : Nat) :
    bumpKey p (roundKey p key r) = roundKey p key (r + 1) := by
  refine List.map_congr_left fun j hj => ?_
  have hlane : lane (roundKey p key r) j = (lane key j + r * lane p.Wc j) % 2 ^ p.W := by
    rw [lane_eq_getElem (by simpa [roundKey] using hj)]
    simp [roundKey]
  rw [hlane, Nat.mod_add_mod, Nat.add_mul, Nat.one_mul, Nat.add_assoc]

/-- The loop of `generate` from round `r` on, when its key for round `r` is the round key of the formula. -/
theorem generateLoop_eq_foldl (p : PhiloxParams) (key : List Nat) (left r : Nat) (c : List Nat) {k : List Nat}
    (hk : (if r > 0 then bumpKey p k else k) = roundKey p key r) :
    generateLoop p left r c k =
      (List.range' r left).foldl (fun c r => philoxRound p c (roundKey p key r)) c := by
  induction left generalizing r c k with
  | zero => rfl
  | succ left ih =>
    have hnext : (if r + 1 > 0 then bumpKey p (roundKey p key r) else roundKey p key r) =
        roundKey p key (r + 1) := by
      rw [if_pos r.succ_pos, bumpKey_roundKey]
    simp only [generateLoop, hk]
    exact ih (r + 1) _ hnext

end Sys2Proof.Machine
end

section
/-! SUPPORT. The two things a Philox command does to a ready block (42_philox.md R138 to R140): it emits, and it moves
the counter on. `PHX.GEN` is the first, `PHX.JUMP` the second, `PHX.NEXT` both. -/

namespace Sys2Proof.Machine

/-! ### Operands and registers -/

/-- The key words of `PHX.SETKEY`: one truncated operand, or two. -/
theorem keyOperand_cases (s : State) :
    (s.phx.N = 2 ∧ keyOperand s = [s.op.w0.toNat % 2 ^ s.phx.W]) ∨
    (s.phx.N = 4 ∧ keyOperand s = [s.op.w0.toNat % 2 ^ s.phx.W, s.op.w1.toNat % 2 ^ s.phx.W]) := by
  rcases phx_N_cases s with h | h
  · exact .inl ⟨h, by simp [keyOperand, Quad.toNats, h]⟩
  · exact .inr ⟨h, by simp [keyOperand, Quad.toNats, h]⟩

/-- The counter words of `PHX.SETCTR`: two truncated operands, or four. -/
theorem counterOperand_cases (s : State) :
    (s.phx.N = 2 ∧ counterOperand s = [s.op.w0.toNat % 2 ^ s.phx.W, s.op.w1.toNat % 2 ^ s.phx.W]) ∨
    (s.phx.N = 4 ∧ counterOperand s = [s.op.w0.toNat % 2 ^ s.phx.W, s.op.w1.toNat % 2 ^ s.phx.W,
      s.op.w2.toNat % 2 ^ s.phx.W, s.op.w3.toNat % 2 ^ s.phx.W]) := by
  rcases phx_N_cases s with h | h
  · exact .inl ⟨h, by simp [counterOperand, Quad.toNats, h]⟩
  · exact .inr ⟨h, by simp [counterOperand, Quad.toNats, h]⟩

/-- A word of `W` bits is not cut by the register it goes to. -/
theorem toNat_ofNat_mod_W (s : State) (v : Nat) :
    (BitVec.ofNat 64 (v % 2 ^ s.phx.W)).toNat = v % 2 ^ s.phx.W := by
  rw [BitVec.toNat_ofNat, Nat.mod_eq_of_lt ((Nat.mod_lt v (Nat.two_pow_pos _)).trans_le (two_pow_W_le s))]

/-- A second delivery that is as long as the first one covers it. -/
theorem deliver_deliver {vs ws : List Nat} (h : vs.length = ws.length) (i : Nat) (old : Word) :
    deliver ws i (deliver vs i old) = deliver ws i old := by
  by_cases hi : vs.length ≤ i
  · rw [deliver_of_length_le hi]
  · simp [deliver, List.getElem?_eq_getElem (show i < ws.length by omega)]

theorem Quad.store_store (q : Quad) {vs ws : List Nat} (h : vs.length = ws.length) :
    (q.store vs).store ws = q.store ws := by
  simp only [Quad.store, deliver_deliver h]

/-- The counter words, delivered to `CTR` again, change nothing. -/
theorem ctr_store_counterWords (s : State) : s.ctr.store (counterWords s) = s.ctr := by
  rcases counterWords_cases s with ⟨_, hwords⟩ | ⟨_, hwords⟩ <;> simp [hwords]

/-- The words of a draw as numbers. -/
theorem out_take_eq_drawWords (s : State) :
    s.out.toNats.take s.phx.N = (drawWords .philox s).map BitVec.toNat := by
  simp [drawWords, Quad.toNats, List.map_take]

/-! ### Emitting and moving the counter on -/

/-- What `PHX.GEN` leaves: the words of `generate(CTR, KEY)` in `OUT` (R138). -/
def State.emit (s : State) : State := s.setOut (generate s.phx (counterWords s) (keyWords s))

/-- What `PHX.JUMP` by `delta` leaves: `ctr_add(CTR, delta)` in `CTR` (R140). -/
def State.advance (s : State) (delta : Nat) : State := s.setCtr (ctrAdd s.phx (counterWords s) delta)

theorem exec_phxGen_emit {s : State} (hcv : s.status.cv = true) (hkv : s.status.kv = true) :
    exec .phxGen s = .next s.emit := exec_phxGen hcv hkv

theorem exec_phxJump_advance {s : State} (hcv : s.status.cv = true) :
    exec .phxJump s = .next (s.advance s.op.w0.toNat) := exec_phxJump hcv

theorem exec_phxNext_emit_advance {s : State} (hcv : s.status.cv = true) (hkv : s.status.kv = true) :
    exec .phxNext s = .next (s.emit.advance 1) := exec_phxNext hcv hkv

/-- No word is cut: the draw is `generate` of the counter and the key, in lane order. -/
theorem drawWords_emit (s : State) :
    (drawWords .philox s.emit).map BitVec.toNat = generate s.phx (counterWords s) (keyWords s) :=
  drawWords_philox_setOut (generate_length s) (generate_lt s)

theorem out_emit (s : State) :
    s.emit.out.toNats.take s.phx.N = generate s.phx (counterWords s) (keyWords s) :=
  (out_take_eq_drawWords s.emit).trans (drawWords_emit s)

theorem out_emit_upper (s : State) (hN : s.phx.N = 2) :
    s.emit.out.w2 = s.out.w2 ∧ s.emit.out.w3 = s.out.w3 :=
  Quad.store_upper ((generate_length s).trans hN).le s.out

/-- What is emitted is a function of the record, the counter and the key (R145). -/
theorem drawWords_emit_congr {s s' : State} (hphx : s.phx = s'.phx) (hctr : counterWords s = counterWords s')
    (hkey : keyWords s = keyWords s') : drawWords .philox s.emit = drawWords .philox s'.emit := by
  apply List.map_injective_iff.2 BitVec.toNat_injective
  rw [drawWords_emit, drawWords_emit, hphx, hctr, hkey]

theorem counterWords_advance (s : State) (delta : Nat) :
    counterWords (s.advance delta) = ctrAdd s.phx (counterWords s) delta :=
  counterWords_setCtr (ctrAdd_length _ _ _) (ctrAdd_lt _ _ _)

theorem counterValue_advance (s : State) (delta : Nat) :
    counterValue s.phx (counterWords (s.advance delta)) =
      (counterValue s.phx (counterWords s) + delta) % 2 ^ (s.phx.N * s.phx.W) := by
  rw [counterWords_advance, counterValue_ctrAdd]

theorem counterWords_advance_lt (s : State) (delta : Nat) :
    ∀ v ∈ counterWords (s.advance delta), v < 2 ^ s.phx.W := by
  rw [counterWords_advance]
  exact ctrAdd_lt _ _ _

theorem ctr_advance_upper (s : State) (delta : Nat) (hN : s.phx.N = 2) :
    (s.advance delta).ctr.w2 = s.ctr.w2 ∧ (s.advance delta).ctr.w3 = s.ctr.w3 :=
  Quad.store_upper ((ctrAdd_length _ _ _).trans hN).le s.ctr

/-! ### How they compose -/

theorem advance_zero {s : State} (hctr : ∀ v ∈ counterWords s, v < 2 ^ s.phx.W) : s.advance 0 = s := by
  rw [State.advance, ctrAdd_zero (counterWords_length s) hctr, State.setCtr, ctr_store_counterWords]

/-- Two moves of the counter are one by the sum (R142). -/
theorem advance_advance (s : State) (x y : Nat) : (s.advance x).advance y = s.advance (x + y) := by
  have hstore : (s.ctr.store (ctrAdd s.phx (counterWords s) x)).store (ctrAdd s.phx (counterWords s) (x + y)) =
      s.ctr.store (ctrAdd s.phx (counterWords s) (x + y)) :=
    Quad.store_store _ (by rw [ctrAdd_length, ctrAdd_length])
  have hwords : ctrAdd (s.advance x).phx (counterWords (s.advance x)) y =
      ctrAdd s.phx (counterWords s) (x + y) := by
    rw [counterWords_advance]
    exact ctrAdd_ctrAdd _ _ _ _
  rw [State.advance, hwords]
  exact congrArg (fun ctr => { s with ctr := ctr }) hstore

/-- A draw covers the one before it in `OUT`. -/
theorem emit_advance_emit (s : State) (delta : Nat) :
    (s.emit.advance delta).emit = (s.advance delta).emit := by
  have hstore : s.emit.out.store (generate s.phx (counterWords (s.advance delta)) (keyWords s)) =
      s.out.store (generate s.phx (counterWords (s.advance delta)) (keyWords s)) :=
    Quad.store_store _ ((generate_length s).trans (generate_length (s.advance delta)).symm)
  exact congrArg (fun out => { s.advance delta with out := out }) hstore

/-- `j + 1` draws: the last one is made with the counter moved on by `j` (R141). -/
theorem execList_phxNext {s : State} (hcv : s.status.cv = true) (hkv : s.status.kv = true)
    (hctr : ∀ v ∈ counterWords s, v < 2 ^ s.phx.W) (j : Nat) :
    execList (List.replicate (j + 1) .phxNext) s = .next ((s.advance j).emit.advance 1) := by
  induction j with
  | zero =>
    rw [advance_zero hctr]
    exact execList_cons (exec_phxNext_emit_advance hcv hkv) []
  | succ j ih =>
    have hlast : exec .phxNext ((s.advance j).emit.advance 1) =
        .next ((s.advance (j + 1)).emit.advance 1) := by
      rw [exec_phxNext_emit_advance (s := (s.advance j).emit.advance 1) hcv hkv, emit_advance_emit, advance_advance]
    rw [List.replicate_succ', execList_append ih, execList_cons hlast]
    rfl

end Sys2Proof.Machine
end

section
/-! The statements of the family 42_philox.md. -/

namespace Sys2Proof.Machine

/-- Settles O23: the operand words, truncated, fit `KEY`; on a 2-word variant there is one of them. -/
theorem phxSetKeyTruncatesTheOperands : Obligations.PhxSetKeyTruncatesTheOperands := by
  refine ⟨decode_encode .phxSetKey, fun s _ => ⟨_, exec_phxSetKey s, ?_⟩⟩
  rcases keyOperand_cases s with ⟨hN, hkey⟩ | ⟨hN, hkey⟩ <;>
    simp [-BitVec.toNat_ofNat, hN, hkey, State.setKey, State.markKey, toNat_ofNat_mod_W]

/-- Settles O24: the operand words, truncated, fit `CTR`; on a 2-word variant there are two of them. -/
theorem phxSetCtrTruncatesTheOperands : Obligations.PhxSetCtrTruncatesTheOperands := by
  refine ⟨decode_encode .phxSetCtr, fun s _ => ⟨_, exec_phxSetCtr s, ?_⟩⟩
  rcases counterOperand_cases s with ⟨hN, hctr⟩ | ⟨hN, hctr⟩ <;>
    simp [-BitVec.toNat_ofNat, hN, hctr, State.setCtr, State.markCtr, toNat_ofNat_mod_W]

/-- Settles O25: a ready `PHX.GEN` is `State.emit`, one that is not ready the `UNINIT` record. -/
theorem phxGenEmitsGenerate : Obligations.PhxGenEmitsGenerate :=
  ⟨decode_encode .phxGen, fun s _ =>
    ⟨fun hcv hkv => ⟨s.emit, exec_phxGen_emit hcv hkv, out_emit s, out_emit_upper s, rfl⟩,
      fun hflag => exec_unready (i := .phxGen) (Bool.and_eq_false_iff.2 hflag)⟩⟩

/-- Settles O26: a ready `PHX.NEXT` is `State.emit` and then `State.advance` by 1, as `PHX.GEN` and `PHX.JUMP` are. -/
theorem phxNextEmitsThenIncrements : Obligations.PhxNextEmitsThenIncrements := by
  refine ⟨decode_encode .phxNext, fun s _ => ⟨fun hcv hkv => ?_,
    fun hflag => exec_unready (i := .phxNext) (Bool.and_eq_false_iff.2 hflag)⟩⟩
  have hgen : exec .phxGen (s.setOp 0 1) = .next (s.setOp 0 1).emit := exec_phxGen_emit hcv hkv
  have hjump : exec .phxJump (s.setOp 0 1).emit = .next ((s.setOp 0 1).emit.advance 1) :=
    exec_phxJump_advance hcv
  exact ⟨s.emit.advance 1, exec_phxNext_emit_advance hcv hkv, out_emit s, out_emit_upper s,
    counterValue_advance s.emit 1, counterWords_advance_lt s.emit 1, ctr_advance_upper s.emit 1, rfl,
    _, (execList_cons hgen _).trans (execList_cons hjump []), rfl⟩

/-- Settles O27: a ready `PHX.JUMP` is `State.advance` by `OP[0]`, one that is not ready the `UNINIT` record. -/
theorem phxJumpAddsDelta : Obligations.PhxJumpAddsDelta :=
  ⟨decode_encode .phxJump, fun s _ =>
    ⟨fun hcv => ⟨_, exec_phxJump_advance hcv, counterValue_advance s _, counterWords_advance_lt s _,
      ctr_advance_upper s _, rfl⟩, fun hcv => exec_unready (i := .phxJump) hcv⟩⟩

/-- Settles O42: quotient and remainder by `2^W`, which are unique. -/
theorem mulhiloSplitsTheExactProduct : Obligations.MulhiloSplitsTheExactProduct := by
  intro W u v hu hv
  obtain ⟨hhi, hlo⟩ := mulhilo_lt hu hv
  exact ⟨mulhilo_reconstruct W u v, hhi, hlo, mulhilo_eq_of_split (by simp) (Nat.two_pow_pos W),
    mulhilo_all_ones hv⟩

/-- Settles O44: the working key of round 0 is the given one, and each increment leads to the next round key. -/
theorem generateUsesTheWeylRoundKeys : Obligations.GenerateUsesTheWeylRoundKeys := by
  intro p ctr key hlen hkey
  rw [List.range_eq_range']
  exact generateLoop_eq_foldl p key p.R 0 ctr (roundKey_zero hlen hkey).symm

/-- Settles O46: the words of `ctr_add` are the digits of the sum. -/
theorem ctrAddIsAdditionOfNumbers : Obligations.CtrAddIsAdditionOfNumbers :=
  fun p ctr delta => ⟨counterValue_ctrAdd p ctr delta, ctrAdd_length p ctr delta, ctrAdd_lt p ctr delta⟩

/-- Settles O47: by induction on the words still to go, the carry being part of what is added. -/
theorem rippleCarryEqualsNumberAddition : Obligations.RippleCarryEqualsNumberAddition :=
  ctrAddWords_eq_ctrAdd

/-- Settles O48: `2^(N*W)` is 0 modulo itself. -/
theorem ctrAddIsAdditive : Obligations.CtrAddIsAdditive := by
  intro p ctr x y
  refine ⟨ctrAdd_ctrAdd p ctr x y, fun hlen hctr => ⟨ctrAdd_zero hlen hctr, ?_⟩⟩
  rw [← ctrAdd_mod, Nat.mod_self, ctrAdd_zero hlen hctr]

/-- Settles O49: two moves of the counter are one by the sum; the operand `x + y` is that sum where it fits. -/
theorem philoxJumpsCompose : Obligations.PhiloxJumpsCompose := by
  intro s x y _ hcv
  have hboth : (((s.setOp 0 x).advance x.toNat).setOp 0 y).advance y.toNat =
      (s.setOp 0 y).advance (x.toNat + y.toNat) := advance_advance (s.setOp 0 y) x.toNat y.toNat
  refine ⟨_, _, _, exec_phxJump_advance (s := s.setOp 0 x) hcv,
    exec_phxJump_advance (s := ((s.setOp 0 x).advance x.toNat).setOp 0 y) hcv,
    exec_phxJump_advance (s := s.setOp 0 (x + y)) hcv, ?_, fun hfits => ?_⟩
  · rw [ctrAdd_mod]
    exact (congrArg counterWords hboth).trans (counterWords_advance _ _)
  · have hsum : (x + y).toNat = x.toNat + y.toNat := BitVec.toNat_add_of_lt hfits
    refine Eq.trans ?_ (congrArg State.ctr hboth).symm
    exact congrArg (fun delta => (s.advance delta).ctr) hsum

/-- Settles O50: the last of `delta + 1` draws is made with the counter moved on by `delta`, as a jump leaves it. -/
theorem jumpThenGenerateIsSequentialDrawing : Obligations.JumpThenGenerateIsSequentialDrawing := by
  intro s _ hcv hkv hrange
  have hctr : ∀ v ∈ counterWords s, v < 2 ^ s.phx.W := fun v hv =>
    Quad.toNats_lt hrange v (List.mem_of_mem_take hv)
  refine ⟨fun j => ⟨_, execList_phxNext hcv hkv hctr j, ?_, ?_⟩, ?_⟩
  · rw [← counterWords_advance]
    exact out_emit (s.advance j)
  · rw [counterWords_advance]
    exact (congrArg (ctrAdd s.phx · 1) (counterWords_advance s j)).trans (ctrAdd_ctrAdd _ _ _ _)
  · have hjump := execList_cons (exec_phxJump_advance hcv)
    have hgen := execList_cons (exec_phxGen_emit (s := s.advance s.op.w0.toNat) hcv hkv) []
    have hnext := execList_cons (exec_phxNext_emit_advance (s := s.advance s.op.w0.toNat) hcv hkv) []
    exact ⟨_, _, _, execList_phxNext hcv hkv hctr _, (hjump _).trans hgen, (hjump _).trans hnext, rfl, rfl⟩

/-- Settles O51: what is emitted and the counter left are written in terms of the record, `CTR` and `KEY`. -/
theorem philoxOutputsDependOnCounterAndKeyOnly : Obligations.PhiloxOutputsDependOnCounterAndKeyOnly := by
  intro i s s' t t' hi hvariant hctr hkey hcv hkv hcv' hkv' h h'
  have hphx : s.phx = s'.phx := congrArg philoxParams hvariant
  have hdraw := drawWords_emit_congr hphx hctr hkey
  rcases hi with rfl | rfl
  · rw [exec_phxGen_emit hcv hkv] at h
    rw [exec_phxGen_emit hcv' hkv'] at h'
    cases h
    cases h'
    exact ⟨hdraw, hctr⟩
  · rw [exec_phxNext_emit_advance hcv hkv] at h
    rw [exec_phxNext_emit_advance hcv' hkv'] at h'
    cases h
    cases h'
    refine ⟨hdraw, ?_⟩
    rw [counterWords_advance, counterWords_advance]
    exact congrArg₂ (ctrAdd · · 1) hphx hctr

/-- Settles O43: both sides are the same four words. -/
theorem fourWordRoundIsSwapThenSboxes : Obligations.FourWordRoundIsSwapThenSboxes := by
  intro p c0 c1 c2 c3 k0 k1
  rfl

end Sys2Proof.Machine
end

section
/-! SUPPORT. The port where it takes a fault and where a fault is already recorded (60_exceptions.md R172 to R177): what
each transaction answers, then a run of a faulted block. -/

namespace Sys2Proof.Machine

/-! ### Taking a fault -/

theorem regRead_unreadable {idx : RegIndex} {s : State} (herr : s.status.err = false)
    (hidx : readableReg idx = none) :
    regRead idx s = (0, raise .badReg (BitVec.ofNat 64 idx.toNat) s) := by
  simp [regRead, hidx, herr]

theorem regWrite_unwritable {idx : RegIndex} {s : State} (herr : s.status.err = false) (hcmd : idx.toNat ≠ 3)
    (hop : ¬ (4 ≤ idx.toNat ∧ idx.toNat ≤ 7)) (v : Word) :
    regWrite idx v s = .next (raise .badReg (BitVec.ofNat 64 (256 + idx.toNat)) s) := by
  rcases regWrite_cases idx v s with ⟨hfaulted, _⟩ | ⟨_, i, hi, _⟩ | ⟨_, hi, _⟩ | ⟨_, _, _, hraise⟩
  · simp [herr] at hfaulted
  · have := (regAt_eq_op idx i).1 hi
    omega
  · exact absurd (congrArg BitVec.toNat ((regAt_eq_cmd idx).1 hi)) hcmd
  · exact hraise

/-- A word that is the word of no command (R63) is recorded and not executed. -/
theorem regWrite_illegal {w : Word} {s : State} (herr : s.status.err = false) (hw : ∀ i, w ≠ encode i) :
    regWrite 3 w s = .next (raise .illegalCmd w s) := by
  obtain ⟨e, hdec⟩ := exists_decode_eq_error_iff.2 hw
  have hexecute : regWrite 3 w s = execute w s := perform_commandWrite w herr
  rw [hexecute, execute, hdec]

/-- A command whose engine state is not valid, written to `CMD`. -/
theorem regWrite_unready {i : Instr} {s : State} (herr : s.status.err = false) (h : ready i s.status = false) :
    regWrite 3 (encode i) s = .next (raise .uninit (encode i) s) :=
  (perform_encode i herr).trans (exec_unready h)

/-! ### The faulted state -/

theorem regRead_unreadable_of_faulted {idx : RegIndex} {s : State} (herr : s.status.err = true)
    (hidx : readableReg idx = none) : regRead idx s = (0, s) := by
  simp [regRead, hidx, herr]

theorem regWrite_of_faulted {s : State} (herr : s.status.err = true) (idx : RegIndex) (v : Word) :
    regWrite idx v s = .next s := by
  simp [regWrite, herr]

/-- Whatever its index, a read of a faulted block changes nothing. -/
theorem regRead_snd_of_faulted {s : State} (herr : s.status.err = true) (idx : RegIndex) :
    (regRead idx s).2 = s := by
  cases hidx : readableReg idx with
  | none => rw [regRead_unreadable_of_faulted herr hidx]
  | some r => rw [regRead_of_readableReg hidx]

/-- A transaction other than `Reset` leaves a faulted block with its answer to the host at most. -/
theorem perform_of_faulted {tr : Transaction} {s : State} (herr : s.status.err = true) (htr : tr ≠ .reset) :
    ∃ vs, perform tr s = .next { s with returned := s.returned ++ vs } := by
  cases tr with
  | regRead idx =>
    rw [perform_regRead, regRead_snd_of_faulted herr]
    exact ⟨[(regRead idx s).1], rfl⟩
  | regWrite idx v =>
    rw [perform_regWrite, regWrite_of_faulted herr]
    exact ⟨[], by rw [List.append_nil]⟩
  | reset => exact absurd rfl htr

theorem step_of_faulted {s : State} (herr : s.status.err = true) (hreset : Transaction.reset ∉ s.pending) :
    ∃ vs, step s = .next { s with pending := s.pending.drop 1, returned := s.returned ++ vs } := by
  cases hp : s.pending with
  | nil => exact ⟨[], by rw [step_idle hp, List.append_nil, List.drop_nil, ← hp]⟩
  | cons tr rest =>
    rw [step_issue hp]
    exact perform_of_faulted (s := s.setPending rest) herr fun htr => hreset (by simp [hp, htr])

/-- A run goes on from where its first step leads, whatever the machine. -/
theorem run_succ {M : Host.Core} {s t : M.State} (h : M.step s = .next t) (k : Nat) :
    M.run (k + 1) s = M.run k t := by
  rw [Host.Core.run, h]

end Sys2Proof.Machine
end

section
/-! SUPPORT. The leapfrog patterns (60_exceptions.md R182): a draw, then a move by the count in `OP[0]`. -/

namespace Sys2Proof.Machine

/-- The discard goes on from the state that the draw has emitted. -/
theorem execList_lcgNext_discard {s : State} (hxv : s.status.xv = true) (hx : s.x.toNat < s.lcg.m) :
    ∃ t, execList [.lcgNext, .lcgDiscard] s = .next t ∧
      t.x.toNat = lcgIter s.lcg (1 + s.op.w0.toNat) s.x.toNat ∧
      t.out.w0.toNat = lcgIter s.lcg 1 s.x.toNat := by
  obtain ⟨u, hnext, hstatus, hlcg, hop, hux, hout⟩ :
      ∃ u, exec .lcgNext s = .next u ∧ u.status = s.status ∧ u.lcg = s.lcg ∧ u.op = s.op ∧
        u.x.toNat = lcgIter s.lcg 1 s.x.toNat ∧ u.out.w0 = u.x :=
    ⟨_, exec_lcgNext hxv, rfl, rfl, rfl, toNat_ofNat_lcgIter hx 1, rfl⟩
  have hrange : u.x.toNat < u.lcg.m := by
    rw [hux, hlcg]
    exact lcgIter_lt hx 1
  have hdiscard := exec_lcgDiscard_iter (hstatus ▸ hxv) hrange
  refine ⟨_, (execList_cons hnext _).trans (execList_cons hdiscard []), ?_, ?_⟩
  · rw [State.setX_x, toNat_ofNat_lcgIter hrange, hlcg, hop, hux, lcgIter_add]
  · rw [State.setX_out, hout, hux]

theorem execList_phxGen_jump {s : State} (hcv : s.status.cv = true) (hkv : s.status.kv = true) :
    execList [.phxGen, .phxJump] s = .next (s.emit.advance s.op.w0.toNat) :=
  (execList_cons (exec_phxGen_emit hcv hkv) _).trans (execList_cons (exec_phxJump_advance (s := s.emit) hcv) [])

/-- The draw has moved the counter on by 1 before the jump. -/
theorem execList_phxNext_jump {s : State} (hcv : s.status.cv = true) (hkv : s.status.kv = true) :
    execList [.phxNext, .phxJump] s = .next (s.emit.advance (1 + s.op.w0.toNat)) := by
  have hjump : exec .phxJump (s.emit.advance 1) = .next ((s.emit.advance 1).advance s.op.w0.toNat) :=
    exec_phxJump_advance hcv
  rw [advance_advance] at hjump
  exact (execList_cons (exec_phxNext_emit_advance hcv hkv) _).trans (execList_cons hjump [])

end Sys2Proof.Machine
end

section
/-! The statements of the family 60_exceptions.md. -/

namespace Sys2Proof.Machine

/-- Settles O10: the unreadable indices are those of `readableReg_eq_none`, the writable ones `CMD` and `OP`. -/
theorem badIndexRecordsBadReg : Obligations.BadIndexRecordsBadReg := by
  intro s idx v herr
  refine ⟨fun hidx => ?_, fun ⟨hcmd, hop⟩ => ?_⟩
  · rw [regRead_unreadable herr ((readableReg_eq_none idx).2 hidx), BitVec.ofNat_toNat]
    rfl
  · rw [regWrite_unwritable herr hcmd hop, BitVec.ofNat_add, BitVec.ofNat_toNat]
    rfl

/-- Settles O12: a word outside the list is the word of no command. -/
theorem illegalWordRecordsIllegalCmd : Obligations.IllegalWordRecordsIllegalCmd :=
  fun _ _ herr hw => regWrite_illegal herr (not_exists.1 (mt mem_commandWords_iff.2 hw))

/-- Settles O13: each of the words is that of a command which is not ready. -/
theorem uninitialisedUseRecordsUninit : Obligations.UninitialisedUseRecordsUninit := by
  rintro s w herr (⟨rfl | rfl, hxv⟩ | ⟨rfl, hcv⟩ | ⟨rfl | rfl, hflag⟩)
  · exact regWrite_unready (i := .lcgNext) herr hxv
  · exact regWrite_unready (i := .lcgDiscard) herr hxv
  · exact regWrite_unready (i := .phxJump) herr hcv
  · exact regWrite_unready (i := .phxGen) herr (Bool.and_eq_false_iff.2 hflag)
  · exact regWrite_unready (i := .phxNext) herr (Bool.and_eq_false_iff.2 hflag)

/-- Settles O14: the port of a faulted block, transaction by transaction. -/
theorem faultedStateIgnoresAllButReset : Obligations.FaultedStateIgnoresAllButReset :=
  fun s idx v herr => ⟨regWrite_of_faulted herr idx v, fun _ hr => regRead_of_readableReg hr s,
    fun hidx => regRead_unreadable_of_faulted herr ((readableReg_eq_none idx).2 hidx)⟩

/-- Settles O15: by induction on the number of steps, each of which keeps the block and drops one transaction. -/
theorem faultedStateIsAbsorbing : Obligations.FaultedStateIsAbsorbing := by
  intro k
  induction k with
  | zero => exact fun s _ _ => ⟨[], by rw [List.append_nil, List.drop_zero]; rfl⟩
  | succ k ih =>
    intro s herr hreset
    obtain ⟨vs, hstep⟩ := step_of_faulted herr hreset
    obtain ⟨ws, hrun⟩ := ih { s with pending := s.pending.drop 1, returned := s.returned ++ vs } herr
      (mt List.mem_of_mem_drop hreset)
    refine ⟨vs ++ ws, ?_⟩
    rw [List.drop_drop, Nat.add_comm 1 k, List.append_assoc] at hrun
    exact (run_succ (M := core) hstep k).trans hrun

/-- Settles O53: both patterns move their engine by `1 + (T - 1)`. -/
theorem leapfrogPatternsAdvanceByT : Obligations.LeapfrogPatternsAdvanceByT := by
  intro s T _ hT
  have hsum : 1 + (T - 1).toNat = T.toNat := by
    rw [BitVec.toNat_sub_of_le hT]
    exact Nat.add_sub_of_le hT
  refine ⟨fun hxv hx => ?_, fun hcv hkv => ?_⟩
  · rw [← hsum]
    exact execList_lcgNext_discard (s := s.setOp 0 (T - 1)) hxv hx
  · have hnext : execList [.phxNext, .phxJump] (s.setOp 0 (T - 1)) =
        .next ((s.setOp 0 (T - 1)).emit.advance (1 + (T - 1).toNat)) := execList_phxNext_jump hcv hkv
    have hgen : execList [.phxGen, .phxJump] (s.setOp 0 T) = .next ((s.setOp 0 T).emit.advance T.toNat) :=
      execList_phxGen_jump hcv hkv
    rw [hsum] at hnext
    exact ⟨_, _, hnext, hgen, rfl, rfl⟩

end Sys2Proof.Machine
end

section
/-! SUPPORT. Completion (70_reset_and_hazards.md R194): every transaction answers a next state, and the loop of
`jump_coeffs` has ended once `n` has no bits left. -/

namespace Sys2Proof.Machine

/-! ### Every transaction completes -/

theorem execute_answers (w : Word) (s : State) : ∃ t, execute w s = .next t := by
  rcases execute_cases w s with ⟨_, _, hraise⟩ | ⟨i, _, hexec⟩
  · exact ⟨_, hraise⟩
  · rw [hexec]
    exact exec_answers i s

theorem regWrite_answers (idx : RegIndex) (v : Word) (s : State) : ∃ t, regWrite idx v s = .next t := by
  rcases regWrite_cases idx v s with
    ⟨_, hignored⟩ | ⟨_, i, _, hstored⟩ | ⟨_, _, hexecute⟩ | ⟨_, _, _, hraise⟩
  · exact ⟨_, hignored⟩
  · exact ⟨_, hstored⟩
  · rw [hexecute]
    exact execute_answers v s
  · exact ⟨_, hraise⟩

theorem perform_answers (tr : Transaction) (s : State) : ∃ t, perform tr s = .next t := by
  cases tr with
  | regRead idx => exact ⟨_, perform_regRead idx s⟩
  | regWrite idx v => exact regWrite_answers idx v s
  | reset => exact ⟨_, perform_reset s⟩

/-! ### The end of the jump loop -/

theorem jumpLoop_zero (p : LcgParams) (fuel A C h f : Nat) : jumpLoop p fuel 0 A C h f = (A, C) := by
  cases fuel <;> rfl

/-- Each iteration takes the lowest bit off `n`, so as many iterations as `n` has bits end the loop, whatever the loop
values. -/
theorem jumpLoop_add_fuel (p : LcgParams) {fuel n : Nat} (hfuel : n < 2 ^ fuel) (extra A C h f : Nat) :
    jumpLoop p (fuel + extra) n A C h f = jumpLoop p fuel n A C h f := by
  induction fuel generalizing n A C h f with
  | zero =>
    obtain rfl : n = 0 := by simpa using hfuel
    rw [jumpLoop_zero, jumpLoop_zero]
  | succ fuel ih =>
    have hhalf : n / 2 < 2 ^ fuel := by rw [pow_succ] at hfuel; omega
    rw [Nat.add_right_comm, jumpLoop, jumpLoop, ih hhalf, ih hhalf]

end Sys2Proof.Machine
end

section
/-! The statements of the family 70_reset_and_hazards.md. -/

namespace Sys2Proof.Machine

/-- Settles O7: with nothing pending the step answers the same state, otherwise what the oldest transaction answers. -/
theorem everyStepAnswersANextState : Obligations.EveryStepAnswersANextState := by
  intro s
  cases hp : s.pending with
  | nil => exact ⟨s, step_idle hp⟩
  | cons tr rest =>
    rw [step_issue hp]
    exact perform_answers tr (s.setPending rest)

/-- Settles O35: a number below `2^64` has no bits left after 64 iterations. -/
theorem jumpLoopEndsWithin64Iterations : Obligations.JumpLoopEndsWithin64Iterations :=
  fun p _ extra A C h f hn => jumpLoop_add_fuel p hn extra A C h f

end Sys2Proof.Machine
end

section
/-! SUPPORT. The round of Philox undone (42_philox.md R131, R132, R134): under a fixed key the low half of a product gives
the multiplied word back when the multiplier is odd, and the high half and the key word then give the word beside it. So
no round, and no sequence of rounds, sends two counters to the same words. -/

namespace Sys2Proof.Machine

/-! ### One S-box -/

/-- An odd multiplier is invertible modulo `2^W`, so the low half of the product determines the word. -/
theorem mulhilo_snd_injective {W m u u' : Nat} (hm : m % 2 = 1) (hu : u < 2 ^ W) (hu' : u' < 2 ^ W)
    (h : (mulhilo W u m).2 = (mulhilo W u' m).2) : u = u' := by
  have hcoprime : Nat.gcd (2 ^ W) m = 1 := (Nat.coprime_two_left.2 (Nat.odd_iff.2 hm)).pow_left W
  exact (Nat.ModEq.cancel_right_of_coprime hcoprime h).eq_of_lt_of_lt hu hu'

/-- The pair of words that one multiplication makes from two words and a key word determines those two. -/
theorem sbox_injective {W m u u' k x x' : Nat} (hm : m % 2 = 1) (hu : u < 2 ^ W) (hu' : u' < 2 ^ W)
    (hlo : (mulhilo W u m).2 = (mulhilo W u' m).2)
    (hhi : (mulhilo W u m).1 ^^^ k ^^^ x = (mulhilo W u' m).1 ^^^ k ^^^ x') : u = u' ∧ x = x' := by
  obtain rfl := mulhilo_snd_injective hm hu hu' hlo
  exact ⟨rfl, Nat.xor_right_injective hhi⟩

/-! ### The rounds -/

theorem philoxParams_wf_parts {p : PhiloxParams} (h : p.wf = true) :
    (p.N = 2 ∨ p.N = 4) ∧ p.M.length = p.N / 2 ∧ ∀ m ∈ p.M, m < 2 ^ p.W := by
  simp only [PhiloxParams.wf, Bool.and_eq_true, Bool.or_eq_true, beq_iff_eq, List.all_eq_true,
    decide_eq_true_eq] at h
  obtain ⟨⟨⟨⟨⟨_, hN⟩, hlen⟩, _⟩, hM⟩, _⟩ := h
  exact ⟨hN, hlen, hM⟩

/-- Two vectors of the same length are equal when their lanes are. -/
theorem eq_of_lanes {n : Nat} {vs ws : List Nat} (hvs : vs.length = n) (hws : ws.length = n)
    (h : ∀ i < n, lane vs i = lane ws i) : vs = ws := by
  refine List.ext_getElem (hvs.trans hws.symm) fun i hi hi' => ?_
  rw [← lane_eq_getElem hi, ← lane_eq_getElem hi', h i (hvs ▸ hi)]

section Rounds

variable {p : PhiloxParams} (hwf : p.wf = true) (hodd : ∀ m ∈ p.M, m % 2 = 1)
include hwf hodd

theorem lane_M_odd {j : Nat} (hj : j < p.N / 2) : lane p.M j % 2 = 1 := by
  obtain ⟨_, hlen, _⟩ := philoxParams_wf_parts hwf
  have hj' : j < p.M.length := hlen ▸ hj
  rw [lane_eq_getElem hj']
  exact hodd _ (List.getElem_mem hj')

/-- One round under a fixed key is injective: one S-box for two words, two of them for four. -/
theorem philoxRound_injective {c c' k : List Nat} (hlen : c.length = p.N) (hlen' : c'.length = p.N)
    (hc : ∀ v ∈ c, v < 2 ^ p.W) (hc' : ∀ v ∈ c', v < 2 ^ p.W)
    (h : philoxRound p c k = philoxRound p c' k) : c = c' := by
  have hM {j : Nat} (hj : j < p.N / 2) := lane_M_odd hwf hodd hj
  have hu (i : Nat) := lane_lt (Nat.two_pow_pos p.W) hc i
  have hu' (i : Nat) := lane_lt (Nat.two_pow_pos p.W) hc' i
  refine eq_of_lanes hlen hlen' fun i hi => ?_
  obtain ⟨hN | hN, _, _⟩ := philoxParams_wf_parts hwf
  · simp only [philoxRound, hN, if_true, round2, List.cons.injEq, and_true] at h
    obtain ⟨hhi, hlo⟩ := h
    obtain ⟨h0, h1⟩ := sbox_injective (hM (by omega)) (hu 0) (hu' 0) hlo hhi
    rw [hN] at hi
    interval_cases i
    exacts [h0, h1]
  · have hN2 : p.N ≠ 2 := by omega
    simp only [philoxRound, if_neg hN2, round4, List.cons.injEq, and_true] at h
    obtain ⟨hhi1, hlo1, hhi0, hlo0⟩ := h
    obtain ⟨h0, h3⟩ := sbox_injective (hM (by omega)) (hu 0) (hu' 0) hlo0 hhi0
    obtain ⟨h2, h1⟩ := sbox_injective (hM (by omega)) (hu 2) (hu' 2) hlo1 hhi1
    rw [hN] at hi
    interval_cases i
    exacts [h0, h1, h2, h3]

/-- The loop of `generate` is injective in the counter, whatever the round it starts from. -/
theorem generateLoop_injective (left r : Nat) {c c' k : List Nat}
    (hlen : c.length = p.N) (hlen' : c'.length = p.N) (hc : ∀ v ∈ c, v < 2 ^ p.W) (hc' : ∀ v ∈ c', v < 2 ^ p.W)
    (hk : ∀ v ∈ k, v < 2 ^ p.W) (h : generateLoop p left r c k = generateLoop p left r c' k) : c = c' := by
  obtain ⟨hN, _, hM⟩ := philoxParams_wf_parts hwf
  induction left generalizing r c c' k with
  | zero => exact h
  | succ left ih =>
    have hk' : ∀ v ∈ (if r > 0 then bumpKey p k else k), v < 2 ^ p.W := by
      split
      · exact bumpKey_lt le_rfl k
      · exact hk
    have hround := ih (r + 1) (philoxRound_length hN _ _) (philoxRound_length hN _ _)
      (philoxRound_lt le_rfl hM hc hk') (philoxRound_lt le_rfl hM hc' hk') hk' h
    exact philoxRound_injective hwf hodd hlen hlen' hc hc' hround

end Rounds

theorem philoxParams_M_odd (v : PhiloxVariant) : ∀ m ∈ (philoxParams v).M, m % 2 = 1 := by
  cases v <;> decide

end Sys2Proof.Machine
end

section
/-! SUPPORT. Command words on the port (40_common_interface.md R82, R83) and what a read leaves of the host's list. -/

namespace Sys2Proof.Machine

/-- A read hands its value over only when the transaction is performed; the list of returned values is not its own. -/
theorem regRead_returned (idx : RegIndex) (s : State) : (regRead idx s).2.returned = s.returned := by
  rcases regRead_cases idx s with ⟨_, _, h⟩ | ⟨_, _, h⟩ | ⟨_, _, h⟩ <;> simp [h]

/-- A step whose oldest transaction writes a command's word to `CMD` is the command. -/
theorem step_commandWrite_encode {s : State} {i : Instr} {rest : List Transaction}
    (h : s.pending = commandWrite (encode i) :: rest) (herr : s.status.err = false) :
    step s = exec i (s.setPending rest) := by
  rw [step_issue h]
  exact perform_encode (s := s.setPending rest) i herr

/-- A row of 64 bits is the whole word. -/
theorem tableWord_toNat (w : Word) : tableWord 64 w.toNat = w := by
  rw [tableWord, Nat.mod_eq_of_lt w.isLt, BitVec.ofNat_toNat, BitVec.setWidth_eq]

theorem withFetchWord_encode_pending (s : State) (i : Instr) :
    (s.withFetchWord 64 (encode i).toNat).pending = commandWrite (encode i) :: s.pending := by
  rw [State.withFetchWord, tableWord_toNat]
  rfl

end Sys2Proof.Machine
end

section
/-! The statement of 93_implementation_defined.md U8, the sample of command words, the step and the base case of the
invariant. -/

namespace Sys2Proof.Machine

/-- Settles O45: each round is injective under its key, so the loop of rounds is. -/
theorem generateIsInjectiveInTheCounter : Obligations.GenerateIsInjectiveInTheCounter := by
  refine ⟨fun p c c' k hwf hodd hlen hlen' _ hc hc' hk h => ?_, fun v => ⟨philoxParams_wf v, philoxParams_M_odd v⟩⟩
  exact generateLoop_injective hwf hodd p.R 0 hlen hlen' hc hc' hk h

/-- Settles O3: the legal words are those of four commands; the fields of the others select no function. -/
theorem sampleWordsDecodeAsListed : Obligations.SampleWordsDecodeAsListed :=
  ⟨decode_encode .lcgNext, decode_encode .lcgDiscard, decode_encode .phxSetKey, decode_encode .phxGen,
    rfl, rfl, rfl, rfl⟩

/-- Settles O4: a read itself leaves the returned values alone, so the one appended is its own. -/
theorem stepPerformsTheOldestTransaction : Obligations.StepPerformsTheOldestTransaction := by
  intro s t rest h
  refine ⟨step_issue h, ?_⟩
  rintro idx v s' rfl hread
  have hreturned : s'.returned = s.returned := by
    simpa [hread] using regRead_returned idx { s with pending := rest }
  rw [step_issue h, perform_regRead, State.setPending, hread, ← hreturned]
  rfl

/-- Settles O5: a word that decodes to a command is that command's word. -/
theorem stepRunsTheDecodedCommand : Obligations.StepRunsTheDecodedCommand := by
  intro s w i rest h herr hdecode
  obtain rfl := eq_encode_of_decode hdecode
  exact step_commandWrite_encode h herr

/-- Settles O6: the placed word is issued first, which leaves pending what was pending before. -/
theorem placedCommandRunsNext : Obligations.PlacedCommandRunsNext :=
  fun s i herr => step_commandWrite_encode (withFetchWord_encode_pending s i) herr

/-- Settles O8: with no transaction to issue there is nothing to perform. -/
theorem idleStepChangesNothing : Obligations.IdleStepChangesNothing :=
  fun _ h => step_idle h

/-- Settles O32: one argument for every pair of variants, that of `State.reset` among them. -/
theorem resetStateMeetsTheInvariant : Obligations.ResetStateMeetsTheInvariant :=
  ⟨State.Inv.resetOf, State.Inv.resetOf exampleInstance⟩

end Sys2Proof.Machine
end
